-- ==== Sys2Proof/Word.lean ====
section
/-! DEFINITION. The machine word and the register number: every register value, memory word, address and
instruction word is a 32-bit vector (R8, R71, R100); a register field is 4 bits (R101). -/

namespace Sys2Proof

/-- A 32-bit word: register value, memory word, word address, instruction word (R3, R8). -/
abbrev Word := BitVec 32

/-- A register number, the 4-bit DR and BR fields (R20, R101). 15 is the PC, 14 the CC register (R21). -/
abbrev RegNum := BitVec 4

/-- Register 15 of a set, its program counter (R21). -/
abbrev pcReg : RegNum := 15#4

/-- Register 14 of a set, its condition-code (status) register (R21, R29). -/
abbrev ccReg : RegNum := 14#4

end Sys2Proof
end

