-- ==== Sys2Proof/Syntax.lean ====
section
/-! DEFINITION. The instructions. `spec/opcode_table.json` has one row per instruction AND operand form (R118). Here
each of its 38 mnemonics is one constructor of `Instr` and each of its row formats one constructor of the form type
that instruction takes, so that a row of the table is exactly one pair (instruction, form) and a term of `Instr` holds
every field the row lists (log entry 15). A compact word is two instructions, its first and its second half (R106). -/

namespace Sys2Proof

/-- The eight conditions of rule R151. -/
inductive Cond where
  | always | lt | z | nz | gt | ge | c | v
deriving DecidableEq, Repr

/-- The six operand forms of an instruction with operand B: formats STD_IMM (R101), STD_REG (R102) and, in each half of
a compact word, C1_IMM, C1_REG, C2_IMM, C2_REG (R106). `vcnd` is the compact word's shared condition field (R107). -/
inductive Form where
  | stdImm (cnd : Cond) (imm : BitVec 18)
  | stdReg (cnd : Cond) (br : RegNum) (imm : BitVec 14)
  | c1Imm (vcnd : BitVec 3) (imm : BitVec 4)
  | c1Reg (vcnd : BitVec 3) (br : RegNum)
  | c2Imm (vcnd : BitVec 3) (imm : BitVec 4)
  | c2Reg (vcnd : BitVec 3) (br : RegNum)
deriving DecidableEq, Repr

/-- The three forms of MOV: format MOV with the A-Usr and B-Usr bits (R103), and a register move in either half of a
compact word, where there are no A and B bits and no offset (R110). -/
inductive MovForm where
  | std (cnd : Cond) (aUsr : Bool) (br : RegNum) (bUsr : Bool) (imm : BitVec 13)
  | c1 (vcnd : BitVec 3) (br : RegNum)
  | c2 (vcnd : BitVec 3) (br : RegNum)
deriving DecidableEq, Repr

/-- The three forms of LDI: format LDI, without a condition (R104), and C1_LDI, C2_LDI with the blank bit that decoding
ignores (R109). -/
inductive LdiForm where
  | std (imm : BitVec 23)
  | c1 (blank : Bool) (vcnd : BitVec 3) (imm : BitVec 5)
  | c2 (blank : Bool) (vcnd : BitVec 3) (imm : BitVec 5)
deriving DecidableEq, Repr

/-- The three forms of an encoding carved out by DR = 14 or 15 (formats SPECIAL, C1_SPECIAL, C2_SPECIAL and the rows
ILLEGAL_1B to ILLEGAL_1D): the low bit of DR and the bits that decoding ignores (R105, R284). -/
inductive SpecialForm where
  | std (drLow : Bool) (ignored : BitVec 22)
  | c1 (drLow : Bool) (vcnd : BitVec 3) (ignored : BitVec 5)
  | c2 (drLow : Bool) (vcnd : BitVec 3) (ignored : BitVec 5)
deriving DecidableEq, Repr

/-- The three forms of a reserved opcode (rows RESERVED_1E, RESERVED_1F, R283). -/
inductive ReservedForm where
  | std (ignored : BitVec 22)
  | c1 (vcnd : BitVec 3) (ignored : BitVec 5)
  | c2 (vcnd : BitVec 3) (ignored : BitVec 5)
deriving DecidableEq, Repr

/-- The two forms of the undefined compact move of an immediate (formats C1_UNDEFINED, C2_UNDEFINED, R110, R115). -/
inductive MovImmForm where
  | c1 (vcnd : BitVec 3) (imm : BitVec 4)
  | c2 (vcnd : BitVec 3) (imm : BitVec 4)
deriving DecidableEq, Repr

/-- The instructions of `spec/opcode_table.json`, one constructor per mnemonic, in the order of the opcode map R112. -/
inductive Instr where
  | sub (dr : RegNum) (f : Form)
  | and (dr : RegNum) (f : Form)
  | add (dr : RegNum) (f : Form)
  | or (dr : RegNum) (f : Form)
  | xor (dr : RegNum) (f : Form)
  | lsr (dr : RegNum) (f : Form)
  | lsl (dr : RegNum) (f : Form)
  | asr (dr : RegNum) (f : Form)
  | ldihi (dr : RegNum) (f : Form)
  | ldilo (dr : RegNum) (f : Form)
  | mpyu (dr : RegNum) (f : Form)
  | mpys (dr : RegNum) (f : Form)
  | brev (dr : RegNum) (f : Form)
  | popc (dr : RegNum) (f : Form)
  | rol (dr : RegNum) (f : Form)
  | mov (dr : RegNum) (f : MovForm)
  | cmp (dr : RegNum) (f : Form)
  | tst (dr : RegNum) (f : Form)
  | lod (dr : RegNum) (f : Form)
  | sto (dr : RegNum) (f : Form)
  | divu (dr : RegNum) (f : Form)
  | divs (dr : RegNum) (f : Form)
  | ldi (dr : RegNum) (f : LdiForm)
  | fpadd (dr : RegNum) (f : Form)
  | fpsub (dr : RegNum) (f : Form)
  | fpmpy (dr : RegNum) (f : Form)
  | fpdiv (dr : RegNum) (f : Form)
  | fpcvt (dr : RegNum) (f : Form)
  | fpint (dr : RegNum) (f : Form)
  | noop (f : SpecialForm)
  | brk (f : SpecialForm)
  | lock (f : SpecialForm)
  | illegal1B (f : SpecialForm)
  | illegal1C (f : SpecialForm)
  | illegal1D (f : SpecialForm)
  | reserved1E (dr : RegNum) (f : ReservedForm)
  | reserved1F (dr : RegNum) (f : ReservedForm)
  | undefinedMovImm (dr : RegNum) (f : MovImmForm)
deriving DecidableEq, Repr

/-- What one 32-bit instruction word holds (R100, R117): one standard instruction, or the two halves of a compact word,
the first in the higher order bits (R106). -/
inductive CodeWord where
  | single (i : Instr)
  | pair (first second : Instr)
deriving DecidableEq, Repr

end Sys2Proof
end

