-- ==== Sys2Proof/WellFormed.lean ====
section
/-! DEFINITION. Which terms of `Instr` and `CodeWord` an instruction word can hold. Field widths are in the types; what
is left is that a floating-point instruction's DR is 0 to 13 (R105, R276), that a standard word holds a standard form
and that the two halves of a compact word stand in their places and share one VCND field (R106, R107). -/

namespace Sys2Proof

/-- Where an instruction stands: a standard word, or the first or second half of a compact word (R100, R106). -/
inductive Slot where
  | std | first | second
deriving DecidableEq, Repr

/-- The slot of a form and, in a compact word, its VCND field (R107). -/
def Form.place : Form → Slot × BitVec 3
  | .stdImm _ _ | .stdReg _ _ _ => (.std, 0#3)
  | .c1Imm v _ | .c1Reg v _ => (.first, v)
  | .c2Imm v _ | .c2Reg v _ => (.second, v)

def MovForm.place : MovForm → Slot × BitVec 3
  | .std _ _ _ _ _ => (.std, 0#3)
  | .c1 v _ => (.first, v)
  | .c2 v _ => (.second, v)

def LdiForm.place : LdiForm → Slot × BitVec 3
  | .std _ => (.std, 0#3)
  | .c1 _ v _ => (.first, v)
  | .c2 _ v _ => (.second, v)

def SpecialForm.place : SpecialForm → Slot × BitVec 3
  | .std _ _ => (.std, 0#3)
  | .c1 _ v _ => (.first, v)
  | .c2 _ v _ => (.second, v)

def ReservedForm.place : ReservedForm → Slot × BitVec 3
  | .std _ => (.std, 0#3)
  | .c1 v _ => (.first, v)
  | .c2 v _ => (.second, v)

def MovImmForm.place : MovImmForm → Slot × BitVec 3
  | .c1 v _ => (.first, v)
  | .c2 v _ => (.second, v)

/-- The slot and VCND field of an instruction. -/
def Instr.place : Instr → Slot × BitVec 3
  | .sub _ f | .and _ f | .add _ f | .or _ f | .xor _ f | .lsr _ f | .lsl _ f | .asr _ f
  | .ldihi _ f | .ldilo _ f | .mpyu _ f | .mpys _ f | .brev _ f | .popc _ f | .rol _ f
  | .cmp _ f | .tst _ f | .lod _ f | .sto _ f | .divu _ f | .divs _ f
  | .fpadd _ f | .fpsub _ f | .fpmpy _ f | .fpdiv _ f | .fpcvt _ f | .fpint _ f => f.place
  | .mov _ f => f.place
  | .ldi _ f => f.place
  | .noop f | .brk f | .lock f | .illegal1B f | .illegal1C f | .illegal1D f => f.place
  | .reserved1E _ f | .reserved1F _ f => f.place
  | .undefinedMovImm _ f => f.place

/-- The DR values 14 and 15 (CC and PC) that carve the special encodings out of the floating-point opcodes (R105). -/
def RegNum.special (dr : RegNum) : Bool := dr == ccReg || dr == pcReg

/-- Well-formedness of one instruction: a floating-point instruction names DR 0 to 13, since with DR 14 or 15 its
opcode is NOOP, BREAK, LOCK or an illegal encoding (R105, R276, R284). -/
def Instr.wellFormed : Instr → Bool
  | .fpadd dr _ | .fpsub dr _ | .fpmpy dr _ | .fpdiv dr _ | .fpcvt dr _ | .fpint dr _ => !RegNum.special dr
  | .sub _ _ | .and _ _ | .add _ _ | .or _ _ | .xor _ _ | .lsr _ _ | .lsl _ _ | .asr _ _
  | .ldihi _ _ | .ldilo _ _ | .mpyu _ _ | .mpys _ _ | .brev _ _ | .popc _ _ | .rol _ _
  | .mov _ _ | .cmp _ _ | .tst _ _ | .lod _ _ | .sto _ _ | .divu _ _ | .divs _ _ | .ldi _ _
  | .noop _ | .brk _ | .lock _ | .illegal1B _ | .illegal1C _ | .illegal1D _
  | .reserved1E _ _ | .reserved1F _ _ | .undefinedMovImm _ _ => true

/-- Well-formedness of an instruction word: a standard form alone, or a first-half and a second-half form that share
one VCND field (R100, R106, R107). -/
def CodeWord.wellFormed : CodeWord → Bool
  | .single i => i.wellFormed && i.place.1 == .std
  | .pair i j => i.wellFormed && j.wellFormed && i.place.1 == .first && j.place.1 == .second && i.place.2 == j.place.2

end Sys2Proof
end

