-- ==== Sys2Proof/Decode.lean ====
section
/-! DEFINITION. The decoder of rule R117, total on every 32-bit word: a word that stands for no instruction decodes to
the constructor of its illegal, reserved or undefined row, which `exec` then faults or refuses by name. After it the
encoder, written from the layouts of rules R101 to R110, and the classes of encodings of rules R113 and R115. -/

namespace Sys2Proof

/-- The condition code of rule R151 as an inductive type. -/
def Cond.ofBits (c : BitVec 3) : Cond :=
  match c.toNat with
  | 0 => .always
  | 1 => .lt
  | 2 => .z
  | 3 => .nz
  | 4 => .gt
  | 5 => .ge
  | 6 => .c
  | _ => .v

/-- The 3-bit CND field of a condition (R151). -/
def Cond.bits : Cond → BitVec 3
  | .always => 0#3
  | .lt => 1#3
  | .z => 2#3
  | .nz => 3#3
  | .gt => 4#3
  | .ge => 5#3
  | .c => 6#3
  | .v => 7#3

/-- One bit of a word as a Bool. -/
def Word.flag (w : Word) (i : Nat) : Bool := w.extractLsb' i 1 == 1#1

/-- What the format of a word or half offers each group of opcodes: the operand form, the MOV (or, in an immediate
compact half, the undefined encoding), and the LDI, special and reserved forms. -/
structure RowForms where
  two : Form
  mov : Instr
  ldi : LdiForm
  special : SpecialForm
  reserved : ReservedForm
deriving DecidableEq, Repr

/-- The opcode map of rule R112: the instruction of an OpCode and a DR. With DR = 14 or 15 the opcodes 0x18 to 0x1d are
the special and illegal encodings (R105, R113); both 0x16 and 0x17 are LDI (R104). -/
def opcodeRow (op : BitVec 5) (dr : RegNum) (f : RowForms) : Instr :=
  match op.toNat with
  | 0x00 => .sub dr f.two
  | 0x01 => .and dr f.two
  | 0x02 => .add dr f.two
  | 0x03 => .or dr f.two
  | 0x04 => .xor dr f.two
  | 0x05 => .lsr dr f.two
  | 0x06 => .lsl dr f.two
  | 0x07 => .asr dr f.two
  | 0x08 => .ldihi dr f.two
  | 0x09 => .ldilo dr f.two
  | 0x0a => .mpyu dr f.two
  | 0x0b => .mpys dr f.two
  | 0x0c => .brev dr f.two
  | 0x0d => .popc dr f.two
  | 0x0e => .rol dr f.two
  | 0x0f => f.mov
  | 0x10 => .cmp dr f.two
  | 0x11 => .tst dr f.two
  | 0x12 => .lod dr f.two
  | 0x13 => .sto dr f.two
  | 0x14 => .divu dr f.two
  | 0x15 => .divs dr f.two
  | 0x16 | 0x17 => .ldi dr f.ldi
  | 0x18 => if RegNum.special dr then .noop f.special else .fpadd dr f.two
  | 0x19 => if RegNum.special dr then .brk f.special else .fpsub dr f.two
  | 0x1a => if RegNum.special dr then .lock f.special else .fpmpy dr f.two
  | 0x1b => if RegNum.special dr then .illegal1B f.special else .fpdiv dr f.two
  | 0x1c => if RegNum.special dr then .illegal1C f.special else .fpcvt dr f.two
  | 0x1d => if RegNum.special dr then .illegal1D f.special else .fpint dr f.two
  | 0x1e => .reserved1E dr f.reserved
  | _ => .reserved1F dr f.reserved

/-- `DecodeStd` of rule R117: a word whose bit 31 is 0, by the layouts of rules R101 to R105. -/
def decodeStd (w : Word) : Instr :=
  let dr := w.extractLsb' 27 4
  let cnd := Cond.ofBits (w.extractLsb' 19 3)
  let br := w.extractLsb' 14 4
  opcodeRow (w.extractLsb' 22 5) dr {
    two := if w.flag 18 then .stdReg cnd br (w.extractLsb' 0 14) else .stdImm cnd (w.extractLsb' 0 18)
    mov := .mov dr (.std cnd (w.flag 18) br (w.flag 13) (w.extractLsb' 0 13))
    ldi := .std (w.extractLsb' 0 23)
    special := .std (w.flag 27) (w.extractLsb' 0 22)
    reserved := .std (w.extractLsb' 0 22) }

/-- `DecodeHalf` of rule R117 for the first half, bits 30:14 of a compact word (R106, R108, R109). -/
def decodeFirst (w : Word) : Instr :=
  let dr := w.extractLsb' 27 4
  let vcnd := w.extractLsb' 19 3
  let f4 := w.extractLsb' 14 4
  opcodeRow (w.extractLsb' 22 5) dr {
    two := if w.flag 18 then .c1Reg vcnd f4 else .c1Imm vcnd f4
    mov := if w.flag 18 then .mov dr (.c1 vcnd f4) else .undefinedMovImm dr (.c1 vcnd f4)
    ldi := .c1 (w.flag 22) vcnd (w.extractLsb' 14 5)
    special := .c1 (w.flag 27) vcnd (w.extractLsb' 14 5)
    reserved := .c1 vcnd (w.extractLsb' 14 5) }

/-- `DecodeHalf` of rule R117 for the second half, bits 13:0 of a compact word, with the shared VCND field. -/
def decodeSecond (w : Word) : Instr :=
  let dr := w.extractLsb' 10 4
  let vcnd := w.extractLsb' 19 3
  let f4 := w.extractLsb' 0 4
  opcodeRow (w.extractLsb' 5 5) dr {
    two := if w.flag 4 then .c2Reg vcnd f4 else .c2Imm vcnd f4
    mov := if w.flag 4 then .mov dr (.c2 vcnd f4) else .undefinedMovImm dr (.c2 vcnd f4)
    ldi := .c2 (w.flag 5) vcnd (w.extractLsb' 0 5)
    special := .c2 (w.flag 10) vcnd (w.extractLsb' 0 5)
    reserved := .c2 vcnd (w.extractLsb' 0 5) }

/-- `DecodeWord` of rule R117: bit 31 selects the standard or the compact layout (R100). -/
def decodeWord (w : Word) : CodeWord :=
  if w.flag 31 then .pair (decodeFirst w) (decodeSecond w) else .single (decodeStd w)

/-- The instruction that stands at one place of a word. -/
def decodeAt : Slot → Word → Instr
  | .std, w => decodeStd w
  | .first, w => decodeFirst w
  | .second, w => decodeSecond w

/-- The instruction the decoder reads from the bits of one opcode-table row (log entry 16). A compact word holds two: a
row of the table gives bits to one half only and the other half is zeros, so the half that is not all zeros is the
row's; if both are, or neither is, it is the first half. -/
def decodeTableWord (nbits w : Nat) : Option Instr :=
  let word : Word := BitVec.ofNat 32 (w % 2 ^ nbits)
  match decodeWord word with
  | .single i => some i
  | .pair i j =>
    let firstBits := word.extractLsb' 22 9 ++ word.extractLsb' 14 5
    let secondBits := word.extractLsb' 0 14
    some (if secondBits ≠ 0#14 ∧ firstBits = 0#14 then j else i)

/-! ### The encoder -/

/-- The bits below the OpCode: 22 bits in a standard word; in a compact half the shared VCND field and the 5 bits
below that half's OpCode (R101 to R109). -/
inductive LowBits where
  | std (bits : BitVec 22)
  | first (vcnd : BitVec 3) (bits : BitVec 5)
  | second (vcnd : BitVec 3) (bits : BitVec 5)
deriving DecidableEq, Repr

/-- Operand B in its six layouts (R101, R102, R106). -/
def Form.low : Form → LowBits
  | .stdImm cnd imm => .std (cnd.bits ++ 0#1 ++ imm)
  | .stdReg cnd br imm => .std (cnd.bits ++ 1#1 ++ br ++ imm)
  | .c1Imm v imm => .first v (0#1 ++ imm)
  | .c1Reg v br => .first v (1#1 ++ br)
  | .c2Imm v imm => .second v (0#1 ++ imm)
  | .c2Reg v br => .second v (1#1 ++ br)

/-- MOV's layouts (R103, R110). -/
def MovForm.low : MovForm → LowBits
  | .std cnd a br b imm => .std (cnd.bits ++ BitVec.ofBool a ++ br ++ BitVec.ofBool b ++ imm)
  | .c1 v br => .first v (1#1 ++ br)
  | .c2 v br => .second v (1#1 ++ br)

/-- LDI's layouts below bit 22 (R104, R109). -/
def LdiForm.low : LdiForm → LowBits
  | .std imm => .std (imm.extractLsb' 0 22)
  | .c1 _ v imm => .first v imm
  | .c2 _ v imm => .second v imm

/-- LDI's OpCode: 1011 and then the immediate's sign bit, or the blank bit of a compact half (R104, R109). -/
def LdiForm.opcode : LdiForm → BitVec 5
  | .std imm => 0b1011#4 ++ imm.extractLsb' 22 1
  | .c1 blank _ _ | .c2 blank _ _ => 0b1011#4 ++ BitVec.ofBool blank

def SpecialForm.low : SpecialForm → LowBits
  | .std _ ign => .std ign
  | .c1 _ v ign => .first v ign
  | .c2 _ v ign => .second v ign

/-- The DR field of a special encoding: 111 and the low bit (R105). -/
def SpecialForm.dr : SpecialForm → RegNum
  | .std low _ | .c1 low _ _ | .c2 low _ _ => 0b111#3 ++ BitVec.ofBool low

def ReservedForm.low : ReservedForm → LowBits
  | .std ign => .std ign
  | .c1 v ign => .first v ign
  | .c2 v ign => .second v ign

def MovImmForm.low : MovImmForm → LowBits
  | .c1 v imm => .first v (0#1 ++ imm)
  | .c2 v imm => .second v (0#1 ++ imm)

/-- The three fields of an instruction's encoding: DR, the OpCode of the opcode map R112, and the bits below it. -/
def Instr.fields : Instr → RegNum × BitVec 5 × LowBits
  | .sub dr f => (dr, 0x00#5, f.low)
  | .and dr f => (dr, 0x01#5, f.low)
  | .add dr f => (dr, 0x02#5, f.low)
  | .or dr f => (dr, 0x03#5, f.low)
  | .xor dr f => (dr, 0x04#5, f.low)
  | .lsr dr f => (dr, 0x05#5, f.low)
  | .lsl dr f => (dr, 0x06#5, f.low)
  | .asr dr f => (dr, 0x07#5, f.low)
  | .ldihi dr f => (dr, 0x08#5, f.low)
  | .ldilo dr f => (dr, 0x09#5, f.low)
  | .mpyu dr f => (dr, 0x0a#5, f.low)
  | .mpys dr f => (dr, 0x0b#5, f.low)
  | .brev dr f => (dr, 0x0c#5, f.low)
  | .popc dr f => (dr, 0x0d#5, f.low)
  | .rol dr f => (dr, 0x0e#5, f.low)
  | .mov dr f => (dr, 0x0f#5, f.low)
  | .cmp dr f => (dr, 0x10#5, f.low)
  | .tst dr f => (dr, 0x11#5, f.low)
  | .lod dr f => (dr, 0x12#5, f.low)
  | .sto dr f => (dr, 0x13#5, f.low)
  | .divu dr f => (dr, 0x14#5, f.low)
  | .divs dr f => (dr, 0x15#5, f.low)
  | .ldi dr f => (dr, f.opcode, f.low)
  | .fpadd dr f => (dr, 0x18#5, f.low)
  | .fpsub dr f => (dr, 0x19#5, f.low)
  | .fpmpy dr f => (dr, 0x1a#5, f.low)
  | .fpdiv dr f => (dr, 0x1b#5, f.low)
  | .fpcvt dr f => (dr, 0x1c#5, f.low)
  | .fpint dr f => (dr, 0x1d#5, f.low)
  | .noop f => (f.dr, 0x18#5, f.low)
  | .brk f => (f.dr, 0x19#5, f.low)
  | .lock f => (f.dr, 0x1a#5, f.low)
  | .illegal1B f => (f.dr, 0x1b#5, f.low)
  | .illegal1C f => (f.dr, 0x1c#5, f.low)
  | .illegal1D f => (f.dr, 0x1d#5, f.low)
  | .reserved1E dr f => (dr, 0x1e#5, f.low)
  | .reserved1F dr f => (dr, 0x1f#5, f.low)
  | .undefinedMovImm dr f => (dr, 0x0f#5, f.low)

/-- A standard word: bit 31 = 0, DR, OpCode, 22 low bits (R101 to R105). -/
def stdWord (dr : RegNum) (op : BitVec 5) (low : BitVec 22) : Word := 0#1 ++ dr ++ op ++ low

/-- A compact word: bit 31 = 1, DR1, OpCode1, VCND, five bits, DR2, OpCode2, five bits (R106). -/
def compactWord (dr1 : RegNum) (op1 : BitVec 5) (vcnd : BitVec 3) (low1 : BitVec 5)
    (dr2 : RegNum) (op2 : BitVec 5) (low2 : BitVec 5) : Word :=
  1#1 ++ dr1 ++ op1 ++ vcnd ++ low1 ++ dr2 ++ op2 ++ low2

/-- The bits of an instruction's fields: its word, or its half of a compact word beside a half of zeros. -/
def encodeFields : RegNum × BitVec 5 × LowBits → Word
  | (dr, op, .std low) => stdWord dr op low
  | (dr, op, .first v low) => compactWord dr op v low 0#4 0#5 0#5
  | (dr, op, .second v low) => compactWord 0#4 0#5 v 0#5 dr op low

/-- The bits of one instruction. -/
def encode (i : Instr) : Word := encodeFields i.fields

/-- The instruction word of a decoded word: a standard instruction's own, or the compact word of two halves, which
share the first half's VCND field. -/
def encodeWord : CodeWord → Word
  | .single i => encode i
  | .pair i j =>
    match i.fields, j.fields with
    | (dr1, op1, .first v low1), (dr2, op2, .second _ low2) => compactWord dr1 op1 v low1 dr2 op2 low2
    | _, _ => encode i ||| encode j

/-! ### Classes of encodings -/

/-- The illegal instructions of rule R113: the reserved opcodes, the six floating-point instructions (the unit is not
built, `HAS_FPU = false`, R6), and opcodes 0x1b to 0x1d with DR = 14 or 15. -/
def Instr.illegal : Instr → Bool
  | .fpadd _ _ | .fpsub _ _ | .fpmpy _ _ | .fpdiv _ _ | .fpcvt _ _ | .fpint _ _
  | .illegal1B _ | .illegal1C _ | .illegal1D _ | .reserved1E _ _ | .reserved1F _ _ => true
  | .sub _ _ | .and _ _ | .add _ _ | .or _ _ | .xor _ _ | .lsr _ _ | .lsl _ _ | .asr _ _
  | .ldihi _ _ | .ldilo _ _ | .mpyu _ _ | .mpys _ _ | .brev _ _ | .popc _ _ | .rol _ _
  | .mov _ _ | .cmp _ _ | .tst _ _ | .lod _ _ | .sto _ _ | .divu _ _ | .divs _ _ | .ldi _ _
  | .noop _ | .brk _ | .lock _ | .undefinedMovImm _ _ => false

/-- The undefined encodings of rule R115, which a model refuses: the compact move of an immediate, and BREAK or LOCK in
a half of a compact word. -/
def Instr.undefinedEncoding : Instr → Bool
  | .undefinedMovImm _ _ => true
  | .brk f | .lock f => f.place.1 != .std
  | .sub _ _ | .and _ _ | .add _ _ | .or _ _ | .xor _ _ | .lsr _ _ | .lsl _ _ | .asr _ _
  | .ldihi _ _ | .ldilo _ _ | .mpyu _ _ | .mpys _ _ | .brev _ _ | .popc _ _ | .rol _ _
  | .mov _ _ | .cmp _ _ | .tst _ _ | .lod _ _ | .sto _ _ | .divu _ _ | .divs _ _ | .ldi _ _
  | .fpadd _ _ | .fpsub _ _ | .fpmpy _ _ | .fpdiv _ _ | .fpcvt _ _ | .fpint _ _
  | .noop _ | .illegal1B _ | .illegal1C _ | .illegal1D _ | .reserved1E _ _ | .reserved1F _ _ => false

/-- A compact word is illegal as a whole when either half is (R113). -/
def CodeWord.illegal : CodeWord → Bool
  | .single i => i.illegal
  | .pair i j => i.illegal || j.illegal

/-- The instruction words a LOCK span may hold: a standard-format LOD or STO whose DR is not PC or CC (R282). -/
def CodeWord.lockable : CodeWord → Bool
  | .single (.lod dr f) | .single (.sto dr f) => f.place.1 == .std && !RegNum.special dr
  | .single _ | .pair _ _ => false

/-- Whether a word is a LOCK, which its own span does not count (R150). -/
def CodeWord.isLock : CodeWord → Bool
  | .single (.lock _) => true
  | .single _ | .pair _ _ => false

end Sys2Proof
end

