-- ==== Sys2Proof/Config.lean ====
section
/-! DEFINITION. The implementation parameters of rule R6 and the free values (`any_N()`, R9). A free value is an
opaque constant without a body, applied to the draw counter of the state: no proof can learn what it is. -/

namespace Sys2Proof

/-- `PC_READ_BIAS` (R6, R26, decision D1): a read of the own PC returns the word's address plus this. -/
def Config.pcReadBias : Word := 1#32

/-- `LOCK_SPAN` (R6, R282, decision D27): how many instruction words after LOCK are locked. -/
def Config.lockSpan : Nat := 2

/-- `FETCH_COHERENT` (R6, R83, decision D29): `false`, so a fetch of a word that was stored to may see the old word. -/
def Config.fetchCoherent : Bool := false

/-- The value `State.reset` takes for `RESET_ADDRESS`, an OPEN parameter of the spec (R6, R51) that the model takes as the
argument of `State.resetAt` and keeps in `State.resetAddress`. DESIGN CHOICE (log entry 2): 0. Unsafe: a real platform's
reset address may differ. -/
def Config.resetAddress : Word := 0#32

/-- The draw `any_1()` (R9, R158): flag bits the rules leave open. Log entry 8. Safe: nothing constrains it. -/
opaque Config.freeBit : Nat → Bool

/-- The draw `any_32()` (R9, R362): the PC saved after an execute-time fault, the word a peripheral answers with
(R75). Log entries 9 and 11. Safe: nothing constrains it. -/
opaque Config.freeWord : Nat → Word

/-- The choice among the words a fetch may return when it is not coherent with stores (R83). Log entry 10. Safe:
nothing constrains it. -/
opaque Config.fetchPick : Nat → Nat

end Sys2Proof
end

