-- ==== Sys2Proof/Machine/State.lean ====
section
/-! DEFINITION. The state of the machine as plain data: the two register sets with their PCs and CC fields, the global
CC bits, the halt and lock state, memory, the platform's answers, the inputs from outside the core, and the model's own
bookkeeping. Every field cites the rule that names it; reset values are rule R51's or those a log entry names. -/

namespace Sys2Proof.Machine

/-- The four condition flags of a register set, CC bits 3:0 (R30). -/
structure Flags where
  z : Bool
  c : Bool
  n : Bool
  v : Bool
deriving DecidableEq, Repr

/-- One register set (R20) with what the CC model R38 stores per set. R14 is not stored: it is composed from the CC
fields (R39). -/
structure RegSet where
  /-- Registers 0 to 13, plain storage (R20). -/
  gen : Vector Word 14
  /-- Register 15, the set's program counter (R25). -/
  pc : Word
  /-- CC bits 3:0 (R30). -/
  flags : Flags
  /-- CC bit 8, ILL (R35). -/
  ill : Bool
  /-- CC bit 10, BUSERR (R37). -/
  buserr : Bool
  /-- CC bit 11, DIVE (R37). -/
  dive : Bool
  /-- CC bit 12, FPE (R37). -/
  fpe : Bool
  /-- CC bits 31:13, kept for software (R37). -/
  hi : BitVec 19
deriving DecidableEq, Repr

/-- The exceptions that have a CC bit per register set (R351). `floatingPoint` has no cause while the unit is not
built (R355). -/
inductive Exc where
  | illegalInstruction | busError | divideByZero | floatingPoint
deriving DecidableEq, Repr

/-- Why the CPU is halted (R46, R370); `debugger` is the external debugger's hold (R372). -/
inductive HaltReason where
  | sleepInSupervisor
  | exception (e : Exc)
  | brk
  | debugger
deriving DecidableEq, Repr

/-- Memory: the words that differ from what an unlisted address reads as, by word address. The smallest addressable
unit is the 32-bit word (R71), so a cell is a word, not a byte (log entry 4). -/
abbrev Memory := List (Nat × Word)

/-- The kinds of access the bus distinguishes (R75). -/
inductive Access where
  | fetch | load | store
deriving DecidableEq, Repr

/-- How an address answers an access (R75): as plain memory, as a peripheral (the environment's word and effect), or with
a bus error. -/
inductive Reply where
  | memory | peripheral | refused
deriving DecidableEq, Repr

/-- A record of the open parameters `MEMORY_MAP` and `BusError(addr, kind)` (R6, R75): the answers of the `size` words
from `base`, and the kinds of access that the environment never answers there (R85, R412). -/
structure Region where
  base : Nat
  size : Nat
  fetch : Reply
  load : Reply
  store : Reply
  silent : List Access
deriving DecidableEq, Repr

/-- A data access presented to the bus (R75, R76); `locked` when it belongs to a LOCK span's one transaction (R282). -/
inductive BusEvent where
  | load (addr : Word) (locked : Bool)
  | store (addr data : Word) (locked : Bool)
deriving DecidableEq, Repr

/-- What the external debugger can do, or a reset from outside (R371, R372, R400). -/
inductive HostAction where
  | reset
  | halt
  | release
  | stepOne
  | writeReg (user : Bool) (i : RegNum) (v : Word)
  | writeMem (addr v : Word)
deriving DecidableEq, Repr

/-- What the outside world presents at one step: the level of the interrupt line (R359), the writes of other bus masters
between any two of this CPU's accesses (R376), and an action of the external debugger or a reset (R372, R400). -/
structure Input where
  irq : Bool
  /-- Writes of other bus masters before the word's fetch. -/
  writes : List (Word × Word)
  /-- Writes of other bus masters after the word's fetch and before its first data access. -/
  afterFetch : List (Word × Word)
  /-- Writes of other bus masters between the two halves of a compact word. -/
  between : List (Word × Word)
  host : Option HostAction
deriving DecidableEq, Repr

/-- The writes of an input that arrive once the step has begun. -/
def Input.later (x : Input) : List (Word × Word) := x.afterFetch ++ x.between

/-- The machine's state. -/
structure State where
  /-- The supervisor register set `xs` (R20). -/
  sup : RegSet
  /-- The user register set `xu` (R20). -/
  usr : RegSet
  /-- CC bit 5, GIE: the mode bit; `true` is user mode (R32). -/
  gie : Bool
  /-- CC bit 4, SLEEP (R31). -/
  sleep : Bool
  /-- CC bit 6, STEP (R33). -/
  stepBit : Bool
  /-- CC bit 7, BREAKEN (R34). -/
  breakEn : Bool
  /-- CC bit 9, TRAP (R36). -/
  trap : Bool
  /-- `halted`, with its reason (R46). -/
  halted : Option HaltReason
  /-- `lock_count` (R46, R282). -/
  lockCount : Nat
  /-- Whether the bus is deadlocked: an access of this CPU waits for an answer that the environment never gives. It is the
  environment's state and not the CPU's (R412), and the stuck state of rule R85 (R400; log entry 19). -/
  busDeadlocked : Bool
  /-- `Mem` (R45, R70). -/
  mem : Memory
  /-- The platform's map (R6, R75); the first region that holds an address decides, an address in none is memory. -/
  regions : List Region
  /-- `RESET_ADDRESS` (R6, R51), which a reset puts into `spc`; an open parameter, constant over a run (log entry 2). -/
  resetAddress : Word
  /-- The inputs of the coming steps, the next one first (R359, R372, R376). -/
  inputs : List Input
  /-- Writes of other bus masters that have arrived and not yet reached memory, oldest first: a LOCK span holds them off
  (R82, R282). -/
  heldWrites : List (Word × Word)
  /-- The data accesses presented to the bus, newest first (R75, R76, R80). -/
  busLog : List BusEvent
  /-- Words an address held before it was overwritten since reset, which a fetch may still return (R83). -/
  stale : List (Nat × Word)
  /-- `A`: the word address the current instruction word was fetched from (R9). -/
  wordAddr : Word
  /-- Whether the current instruction word has caused a control event (R150, R157). The model's own bookkeeping. -/
  control : Bool
  /-- How many draws (`any_N()`, R9) have been made. The model's own counter. -/
  draws : Nat
deriving DecidableEq, Repr

/-- Why the machine stops with a fault: never. Every exception of the spec is taken, a halt and the stuck state of rule
R85 are states, every address exists (R71, R74) and every read has a value, so this type has no constructor (log entry
19). -/
inductive Fault where
deriving DecidableEq, Repr

/-- Why an instruction has no meaning. -/
inductive Refusal where
  /-- An instruction whose meaning has not been written. Raised by no arm of `exec`. Safe. -/
  | notModelled (mnemonic : String)
  /-- A compact move of an immediate, an undefined encoding (R110, R115 item 1). Raised by `execUndefinedMovImm`.
  Safe: the spec says a model refuses it. -/
  | compactMovImmediate
  /-- BREAK in a half of a compact word (R115 item 2, R281). Raised by `execBreak`. Safe: the spec says a model refuses
  it. -/
  | compactBreak
  /-- LOCK in a half of a compact word (R115 item 2). Raised by `execLock`. Safe: the spec says a model refuses it. -/
  | compactLock
  /-- A LOCK span holds something other than a standard-format LOD or STO whose DR is not PC or CC (R282). Raised by
  step. Safe: the spec says a model refuses it. -/
  | lockSpan
deriving DecidableEq, Repr

/-- The three outcomes of an instruction or a step (Host/Core.lean). -/
abbrev Outcome := Host.Outcome State Fault Refusal

/-- A register set after reset: exception bits 0 (R51); registers 0 to 13, flags and CC bits 31:13, which the spec leaves
unspecified, are 0 (log entry 1, DESIGN CHOICE, unsafe). -/
def RegSet.reset (pc : Word) : RegSet :=
  { gen := Vector.replicate 14 0#32
    pc := pc
    flags := { z := false, c := false, n := false, v := false }
    ill := false
    buserr := false
    dive := false
    fpe := false
    hi := 0#19 }

/-- The machine right after reset on a platform whose `RESET_ADDRESS` is the argument (R6, R51, R400): supervisor mode,
awake, not halted, every exception bit clear, `spc` at the reset address, memory with nothing listed (log entry 3), the
whole space plain memory (log entry 5), quiet inputs (log entry 6). -/
def State.resetAt (addr : Word) : State :=
  { sup := RegSet.reset addr
    usr := RegSet.reset 0#32
    gie := false
    sleep := false
    stepBit := false
    breakEn := false
    trap := false
    halted := none
    lockCount := 0
    busDeadlocked := false
    mem := []
    regions := []
    resetAddress := addr
    inputs := []
    heldWrites := []
    busLog := []
    stale := []
    wordAddr := 0#32
    control := false
    draws := 0 }

/-- The machine right after reset, at the reset address that log entry 2 names. -/
def State.reset : State := State.resetAt Config.resetAddress

end Sys2Proof.Machine
end

