-- ==== Sys2Proof/Machine/Flags.lean ====
section
/-! DEFINITION. The flag computations of rule R158, whole: the Z and N of a result, and the C and V of each row of its
table, with `none` where the rule gives a draw `any_1()`. -/

namespace Sys2Proof.Machine

/-- What a row of rule R158 says of C and V: a value, or `none` for a draw. -/
structure CarryOverflow where
  c : Option Bool
  v : Option Bool
deriving DecidableEq, Repr

/-- Row ADD (R158): carry out of bit 31, signed overflow. -/
def addCV (a b : Word) : CarryOverflow :=
  { c := some (decide (2 ^ 32 ≤ a.toNat + b.toNat))
    v := some (a.msb == b.msb && (a + b).msb != a.msb) }

/-- Row SUB, CMP (R158): C is the borrow, V the signed overflow of `a - b`. -/
def subCV (a b : Word) : CarryOverflow :=
  { c := some (decide (a.toNat < b.toNat))
    v := some (a.msb != b.msb && (a - b).msb != a.msb) }

/-- Row LSR, ASR (R158): the last bit shifted out, 0 for no shift, a draw for 32 or more. -/
def shiftRightCV (a b : Word) : CarryOverflow :=
  { c := if b.toNat = 0 then some false else if b.toNat < 32 then some (a.getLsbD (b.toNat - 1)) else none
    v := none }

/-- Row LSL (R158). -/
def shiftLeftCV (a b : Word) : CarryOverflow :=
  { c := if b.toNat = 0 then some false else if b.toNat < 32 then some (a.getLsbD (32 - b.toNat)) else none
    v := none }

/-- The rows whose C and V are draws (R158): AND, OR, XOR, TST, ROL, BREV, POPC, MPYU, MPYS, DIVU, DIVS. -/
def openCV (_a _b : Word) : CarryOverflow := { c := none, v := none }

/-- The four flags of a result `r` (R158), the open ones drawn at counter `n`. -/
def flagsOf (r : Word) (cv : CarryOverflow) (n : Nat) : Flags :=
  { z := r == 0#32
    c := cv.c.getD (Config.freeBit n)
    n := r.msb
    v := cv.v.getD (Config.freeBit (n + 1)) }

/-- Bits 3:0 of a value written to CC, as flags (R40, R41, R42). -/
def flagsOfBits (v : Word) : Flags :=
  { z := v[0], c := v[1], n := v[2], v := v[3] }

/-- Flags as CC bits 3:0 (R29). -/
def Flags.bits (f : Flags) : BitVec 4 :=
  BitVec.ofBool f.v ++ BitVec.ofBool f.n ++ BitVec.ofBool f.c ++ BitVec.ofBool f.z

end Sys2Proof.Machine
end

