-- ==== Sys2Proof/Machine/Ops.lean ====
section
/-! DEFINITION. The named operations over registers and memory that every meaning goes through: the register and CC
accessors (R26, R39 to R43, R155, R156), taking an exception, trapping, halting and returning (R356 to R370), the
draws (R9), and the memory primitives (R75, R83). -/

namespace Sys2Proof.Machine

/-! ### Memory -/

/-- What an address that memory does not list reads as: the word 0 (log entry 3, DESIGN CHOICE, unsafe). -/
def Memory.blank : Word := 0#32

/-- The word at a word address (R45). -/
def Memory.read : Memory → Nat → Word
  | [], _ => Memory.blank
  | (k, w) :: rest, a => if k = a then w else Memory.read rest a

/-- Memory with the word at one address replaced; a word equal to `Memory.blank` is not listed. -/
def Memory.write : Memory → Nat → Word → Memory
  | [], a, v => if v = Memory.blank then [] else [(a, v)]
  | (k, w) :: rest, a, v =>
    if a < k then (if v = Memory.blank then (k, w) :: rest else (a, v) :: (k, w) :: rest)
    else if a = k then (if v = Memory.blank then rest else (a, v) :: rest)
    else (k, w) :: Memory.write rest a v

/-- The canonical form: addresses strictly rising and below 2^32, no listed word equal to `Memory.blank`. -/
abbrev Memory.wf (m : Memory) : Prop :=
  m.Pairwise (fun x y => x.1 < y.1) ∧ ∀ c ∈ m, c.2 ≠ Memory.blank ∧ c.1 < 2 ^ 32

/-! ### Register sets -/

/-- General register `i` of a set, 0 to 13 (R20). -/
def RegSet.get (rs : RegSet) (i : RegNum) : Word := rs.gen[i.toNat]?.getD 0#32

/-- Writing general register `i` of a set, 0 to 13. -/
def RegSet.put (rs : RegSet) (i : RegNum) (v : Word) : RegSet := { rs with gen := rs.gen.setIfInBounds i.toNat v }

/-- Writing bits 3:0 and 31:13 of a set's CC (R40, R41, R42). -/
def RegSet.putCCBits (rs : RegSet) (v : Word) : RegSet :=
  { rs with flags := flagsOfBits v, hi := v.extractLsb' 13 19 }

/-- Setting an exception's bit in a set's CC (R351). -/
def RegSet.setExc (rs : RegSet) : Exc → RegSet
  | .illegalInstruction => { rs with ill := true }
  | .busError => { rs with buserr := true }
  | .divideByZero => { rs with dive := true }
  | .floatingPoint => { rs with fpe := true }

/-- Clearing a set's exception bits (R363). -/
def RegSet.clearExc (rs : RegSet) : RegSet :=
  { rs with ill := false, buserr := false, dive := false, fpe := false }

/-- The current register set: the user's when `gie = 1` (R22). -/
def State.cur (s : State) : RegSet := if s.gie then s.usr else s.sup

/-- Replacing the current register set. -/
def State.setCur (s : State) (rs : RegSet) : State := if s.gie then { s with usr := rs } else { s with sup := rs }

/-- Writing the stored PC of the current set without a jump (R28, R362). -/
def State.setPc (s : State) (v : Word) : State := s.setCur { s.cur with pc := v }

/-! ### Draws -/

/-- The next draw of a word, `any_32()` (R9). -/
def State.drawWord (s : State) : Word := Config.freeWord s.draws

/-- Counting `k` draws as made. -/
def State.countDraws (s : State) (k : Nat) : State := { s with draws := s.draws + k }

/-! ### Mode changes -/

/-- `Halt(reason)` (R370). -/
def State.halt (s : State) (r : HaltReason) : State := { s with halted := some r, control := true }

/-- The bus deadlocks in an access that the environment never answers (R85, R412): the rest of the word does not run. -/
def State.deadlockBus (s : State) : State := { s with busDeadlocked := true, control := true }

/-- `TrapEntry`, the entry to supervisor mode common to every event that leaves user mode (R361), less the cause's bit:
the user PC is saved, GIE, SLEEP, STEP and `lock_count` are cleared, and the next word is fetched from `spc`. -/
def State.enterSupervisor (s : State) (saved : Word) : State :=
  { s with
    usr := { s.usr with pc := saved }
    gie := false
    sleep := false
    stepBit := false
    lockCount := 0
    control := true }

/-- The PC that taking an exception saves (R362, R365): the address of the word for IllegalInstruction, a draw for the
execute-time faults (`UPC_AFTER_EXEC_FAULT`, log entry 9). -/
def State.excPc (s : State) : Exc → Word
  | .illegalInstruction => s.wordAddr
  | .busError | .divideByZero | .floatingPoint => s.drawWord

/-- How many draws taking an exception makes. -/
def Exc.draws : Exc → Nat
  | .illegalInstruction => 0
  | .busError | .divideByZero | .floatingPoint => 1

/-- TAKING AN EXCEPTION (R9 `raise`): in user mode the user CC bit and `TrapEntry` (R361), in supervisor mode the
supervisor CC bit and a halt (R365). -/
def State.raise (s : State) (e : Exc) : State :=
  if s.gie then
    ({ s with usr := s.usr.setExc e, draws := s.draws + e.draws }).enterSupervisor (s.excPc e)
  else
    ({ s with sup := { s.sup.setExc e with pc := s.excPc e }, draws := s.draws + e.draws }).halt (.exception e)

/-- A bus error of a data access (R353), which also ends a LOCK span (R282). -/
def State.raiseBusError (s : State) : State := ({ s with lockCount := 0 }).raise .busError

/-- `Break(A)` (R281, R357): the PC stays the BREAK's own address; with BREAKEN set or in supervisor mode the CPU halts,
else user mode is left without a cause bit. -/
def State.breakTrap (s : State) : State :=
  if s.breakEn || !s.gie then (s.setPc s.wordAddr).halt .brk else s.enterSupervisor s.wordAddr

/-- `InterruptEntry` (R359): `upc` already holds the next user word. -/
def State.interruptEntry (s : State) : State := s.enterSupervisor s.usr.pc

/-- `StepReturn` (R358): one user word has run with STEP set; `upc` already holds the next. -/
def State.stepReturn (s : State) : State := s.enterSupervisor s.usr.pc

/-- RETURN TO USER MODE, `ReturnToUser` (R363, R364): `spc` is the word after this one, the user exception bits and TRAP
are cleared and GIE is set. -/
def State.returnToUser (s : State) : State :=
  { s with
    sup := { s.sup with pc := s.wordAddr + 1#32 }
    usr := s.usr.clearExc
    trap := false
    gie := true
    control := true }

/-! ### The CC register -/

/-- `CCread(t)` (R39): the CC register of a set, bit 5 reading as the mode that set belongs to. -/
def State.ccOf (s : State) (rs : RegSet) (user : Bool) : Word :=
  rs.hi ++ BitVec.ofBool rs.fpe ++ BitVec.ofBool rs.dive ++ BitVec.ofBool rs.buserr ++ BitVec.ofBool s.trap ++
    BitVec.ofBool rs.ill ++ BitVec.ofBool s.breakEn ++ BitVec.ofBool s.stepBit ++ BitVec.ofBool user ++
    BitVec.ofBool s.sleep ++ rs.flags.bits

/-- Reading the own CC (R39). -/
def State.readCC (s : State) : Word := s.ccOf s.cur s.gie

/-- Writing the own CC in supervisor mode (R40): flags, bits 31:13, STEP, BREAKEN, SLEEP and GIE from the value; bits
8 to 12 are ignored. -/
def State.writeCCSupervisor (s : State) (v : Word) : State :=
  let t := { s with
    sup := s.sup.putCCBits v
    stepBit := v[6]
    breakEn := v[7]
    sleep := v[4] }
  if v[5] then t.returnToUser
  else if v[4] then t.halt .sleepInSupervisor
  else t

/-- Writing the own CC in user mode (R41): flags and bits 31:13; with bit 5 set SLEEP too, with bit 5 clear the trap
(R356), which saves the address of the next word. -/
def State.writeCCUser (s : State) (v : Word) : State :=
  let t := { s with usr := s.usr.putCCBits v }
  if v[5] then { t with sleep := v[4], control := t.control || v[4] }
  else ({ t with trap := true }).enterSupervisor (s.wordAddr + 1#32)

/-- Writing the own CC (R156). -/
def State.writeCC (s : State) (v : Word) : State := if s.gie then s.writeCCUser v else s.writeCCSupervisor v

/-! ### Register operands -/

/-- `x[i]`, a register read by the current word (R155): the biased PC, the composed CC, or a stored register. -/
def State.readReg (s : State) (i : RegNum) : Word :=
  if i = pcReg then s.wordAddr + Config.pcReadBias
  else if i = ccReg then s.readCC
  else s.cur.get i

/-- A jump (R27, R156): the own PC is written, a control event. -/
def State.jump (s : State) (v : Word) : State := { s.setPc v with control := true }

/-- `x[i] <- v` (R156). -/
def State.writeReg (s : State) (i : RegNum) (v : Word) : State :=
  if i = pcReg then s.jump v
  else if i = ccReg then s.writeCC v
  else s.setCur (s.cur.put i v)

/-- `RegOther(U, i)` (R223): a user register read by a supervisor-mode MOV, the PC without bias (R28). -/
def State.readUser (s : State) (i : RegNum) : Word :=
  if i = pcReg then s.usr.pc
  else if i = ccReg then s.ccOf s.usr true
  else s.usr.get i

/-- `WriteOther(U, i, v)` (R223): a user register written by a supervisor-mode MOV; no jump, and of CC only the flags
and bits 31:13 (R42). -/
def State.writeUser (s : State) (i : RegNum) (v : Word) : State :=
  if i = pcReg then { s with usr := { s.usr with pc := v } }
  else if i = ccReg then { s with usr := s.usr.putCCBits v }
  else { s with usr := s.usr.put i v }

/-- Writing Z, C, N and V of the current set from a result (R153, R158), the open flags drawn. -/
def State.writeFlags (s : State) (r : Word) (cv : CarryOverflow) : State :=
  (s.setCur { s.cur with flags := flagsOf r cv s.draws }).countDraws 2

/-! ### The bus -/

/-- Whether a region holds an address. -/
def Region.holds (g : Region) (a : Word) : Bool := decide (g.base ≤ a.toNat) && decide (a.toNat < g.base + g.size)

/-- A region's answer to one kind of access. -/
def Region.reply (g : Region) : Access → Reply
  | .fetch => g.fetch
  | .load => g.load
  | .store => g.store

/-- How the platform answers an access (R75): the first region that holds the address, else plain memory. -/
def State.reply (s : State) (k : Access) (a : Word) : Reply :=
  match s.regions.find? (fun g => g.holds a) with
  | some g => g.reply k
  | none => .memory

/-- Whether the environment ever answers an access (R85, R412): a region may be silent to a kind of access. -/
def State.answers (s : State) (k : Access) (a : Word) : Bool :=
  match s.regions.find? (fun g => g.holds a) with
  | some g => !g.silent.contains k
  | none => true

/-- The word of memory at an address. -/
def State.peek (s : State) (a : Word) : Word := s.mem.read a.toNat

/-- Writing a word of memory. The overwritten word joins those a later fetch may still return (R83). -/
def State.poke (s : State) (a v : Word) : State :=
  let old := (a.toNat, s.peek a)
  { s with
    mem := s.mem.write a.toNat v
    stale := if old.2 = v ∨ old ∈ s.stale then s.stale else old :: s.stale }

/-- Another agent's write of a word (R376). DESIGN CHOICE (log entry 25), unsafe: it lands where a store would find plain
memory, also where the environment never answers this CPU's stores (R85 speaks of the CPU's accesses only), and changes
nothing elsewhere. -/
def State.outsideWrite (s : State) (a v : Word) : State :=
  if s.reply .store a = .memory then s.poke a v else s

/-- Writes of other bus masters arrive, and wait. -/
def State.queueWrites (s : State) (ws : List (Word × Word)) : State := { s with heldWrites := s.heldWrites ++ ws }

/-- Writes of other bus masters arrive between two of this CPU's accesses and reach memory, oldest first, but not inside a
LOCK span (R376, R82, R282): there they wait (log entry 12). -/
def State.admitWrites (s : State) (ws : List (Word × Word)) : State :=
  if s.lockCount = 0 then (s.heldWrites ++ ws).foldl (fun t w => t.outsideWrite w.1 w.2) { s with heldWrites := [] }
  else s.queueWrites ws

/-- What a read presented to the bus gives: a word or a bus error (R75, R412). -/
inductive ReadResult where
  | word (w : Word) (s : State)
  | busError (s : State)
deriving DecidableEq, Repr

/-- What a write presented to the bus gives: success or a bus error (R75, R412). -/
inductive WriteResult where
  | done (s : State)
  | busError (s : State)
deriving DecidableEq, Repr

/-- An access is presented to the bus (R75, R76). -/
def State.present (s : State) (e : BusEvent) : State := { s with busLog := e :: s.busLog }

/-- The access a load presents. -/
def State.loadEvent (s : State) (a : Word) : BusEvent := .load a (s.lockCount != 0)

/-- The access a store presents. -/
def State.storeEvent (s : State) (a v : Word) : BusEvent := .store a v (s.lockCount != 0)

/-- A data access (R75, R85): where the environment answers, its outcome; else the bus deadlocks in it. -/
def State.dataAccess (s : State) (k : Access) (a : Word) (e : BusEvent) (answered : Outcome) : Outcome :=
  if s.answers k a then answered else .next (s.present e).deadlockBus

/-- `MemRead(addr, 1)` for a load (R75, R412): memory's word, a peripheral's word (a draw, log entry 11), or a bus
error. -/
def State.memRead (s : State) (a : Word) : ReadResult :=
  let t := s.present (s.loadEvent a)
  match s.reply .load a with
  | .memory => .word (s.peek a) t
  | .peripheral => .word s.drawWord (t.countDraws 1)
  | .refused => .busError t

/-- `MemWrite(addr, 1, v)` (R75): memory is written; a peripheral takes the word and memory does not change (log entry
11); a bus error leaves memory unchanged (R241). -/
def State.memWrite (s : State) (a v : Word) : WriteResult :=
  let t := s.present (s.storeEvent a v)
  match s.reply .store a with
  | .memory => .done (t.poke a v)
  | .peripheral => .done t
  | .refused => .busError t

/-- The words the program overwrote at an address since reset (R83). -/
def State.staleAt (s : State) (a : Word) : List Word := (s.stale.filter (fun c => c.1 == a.toNat)).map (fun c => c.2)

/-- The fetch of an instruction word (R75, R83): the word in memory, or with `FETCH_COHERENT = false` and the address
overwritten since reset a draw among that word and those the address held earlier (log entry 10). -/
def State.fetchWord (s : State) (a : Word) : ReadResult :=
  match s.reply .fetch a with
  | .memory =>
    match Config.fetchCoherent, s.staleAt a with
    | false, w :: ws =>
      let words := s.peek a :: w :: ws
      .word (words.getD (Config.fetchPick s.draws % words.length) (s.peek a)) (s.countDraws 1)
    | _, _ => .word (s.peek a) s
  | .peripheral => .word s.drawWord (s.countDraws 1)
  | .refused => .busError s

end Sys2Proof.Machine
end

