-- ==== Sys2Proof/Machine/Operands.lean ====
section
/-! DEFINITION. Conditions and operand forms: when a condition holds (R151), the condition of each half of a compact
word (R107), operand B in all six forms (R154, R108), and the common shapes of a conditional instruction (R152, R153,
R160). -/

namespace Sys2Proof.Machine

/-- `CondHolds` (R151), on the flags of the current set. -/
def condHolds (f : Flags) : Cond → Bool
  | .always => true
  | .lt => f.n
  | .z => f.z
  | .nz => !f.z
  | .gt => !f.n && !f.z
  | .ge => !f.n
  | .c => f.c
  | .v => f.v

/-- `cond_first` (R107): the two low bits of VCND, always applied to the first half. -/
def condFirst (vcnd : BitVec 3) : Cond := Cond.ofBits (0#1 ++ vcnd.extractLsb' 0 2)

/-- `cond_second` (R107): applied to the second half only when the top bit of VCND is set. -/
def condSecond (vcnd : BitVec 3) : Cond := if vcnd[2] then condFirst vcnd else .always

/-- The condition of an instruction with operand B (R101, R102, R107). -/
def formCond : Form → Cond
  | .stdImm cnd _ => cnd
  | .stdReg cnd _ _ => cnd
  | .c1Imm v _ | .c1Reg v _ => condFirst v
  | .c2Imm v _ | .c2Reg v _ => condSecond v

/-- Operand B (R154, R108): a sign-extended immediate, or a register plus a sign-extended offset, modulo 2^32. It is also
the effective address of LOD and STO (R242). -/
def State.operandB (s : State) : Form → Word
  | .stdImm _ imm => imm.signExtend 32
  | .stdReg _ br imm => s.readReg br + imm.signExtend 32
  | .c1Imm _ imm | .c2Imm _ imm => imm.signExtend 32
  | .c1Reg _ br | .c2Reg _ br => s.readReg br

/-- The condition of a MOV (R103, R110). -/
def movCond : MovForm → Cond
  | .std cnd _ _ _ _ => cnd
  | .c1 v _ => condFirst v
  | .c2 v _ => condSecond v

/-- The condition of an LDI: none in the standard format (R104), VCND's in a compact half (R109). -/
def ldiCond : LdiForm → Cond
  | .std _ => .always
  | .c1 _ v _ => condFirst v
  | .c2 _ v _ => condSecond v

/-- The value an LDI loads (R222). -/
def ldiValue : LdiForm → Word
  | .std imm => imm.signExtend 32
  | .c1 _ _ imm | .c2 _ _ imm => imm.signExtend 32

/-- A conditional instruction (R152): its effect if its condition holds on the current flags, else no effect at all. -/
def conditional (cnd : Cond) (s : State) (effect : Outcome) : Outcome :=
  if condHolds s.cur.flags cnd then effect else .next s

/-- Writing the result of an instruction that sets CC and then its flags (R150, R153): the flags are written only by the
unconditional form, and not when the result itself went into CC (R43). -/
def State.writeResult (s : State) (cnd : Cond) (dr : RegNum) (r : Word) (cv : CarryOverflow) : State :=
  let t := s.writeReg dr r
  if cnd = .always ∧ dr ≠ ccReg then t.writeFlags r cv else t

/-- An ALU instruction (R160): both operands are read, then the result and the flags are written. -/
def aluOp (result : Word → Word → Word) (cv : Word → Word → CarryOverflow) (dr : RegNum) (f : Form) (s : State) : Outcome :=
  let a := s.readReg dr
  let b := s.operandB f
  conditional (formCond f) s (.next (s.writeResult (formCond f) dr (result a b) (cv a b)))

/-- A compare or test (R193, R194): the flags of a result that is not written, in every form that executes (R153). -/
def compareOp (result : Word → Word → Word) (cv : Word → Word → CarryOverflow) (dr : RegNum) (f : Form) (s : State) : Outcome :=
  let a := s.readReg dr
  let b := s.operandB f
  conditional (formCond f) s (.next (s.writeFlags (result a b) (cv a b)))

/-- An instruction with operand B that writes its result and never the flags (R153): LDIHI, LDILO. -/
def loadOp (result : Word → Word → Word) (dr : RegNum) (f : Form) (s : State) : Outcome :=
  conditional (formCond f) s (.next (s.writeReg dr (result (s.readReg dr) (s.operandB f))))

/-- A divide (R260 to R262): DivideByZero for operand B = 0, which writes nothing, else as an ALU instruction whose C
and V are draws. -/
def divideOp (quotient : Word → Word → Word) (dr : RegNum) (f : Form) (s : State) : Outcome :=
  let a := s.readReg dr
  let b := s.operandB f
  conditional (formCond f) s
    (.next (if b = 0#32 then s.raise .divideByZero
      else s.writeResult (formCond f) dr (quotient a b) (openCV a b)))

/-- An encoding that raises IllegalInstruction whatever its condition bits (R113, R152, R276, R283, R284). -/
def illegalOp (s : State) : Outcome := .next (s.raise .illegalInstruction)

end Sys2Proof.Machine
end

