-- ==== Sys2Proof/Machine/Alu.lean ====
section
/-! DEFINITION. The fifteen ALU instructions (rules R180 to R194): their results, and their meanings over `aluOp` and
`compareOp`. -/

namespace Sys2Proof.Machine

/-- LSR's result (R185): the amount is the whole unsigned operand. -/
def lsrResult (a b : Word) : Word := if b.toNat < 32 then a >>> b.toNat else 0#32

/-- LSL's result (R186). -/
def lslResult (a b : Word) : Word := if b.toNat < 32 then a <<< b.toNat else 0#32

/-- ASR's result (R187): 32 or more fills with the sign. -/
def asrResult (a b : Word) : Word :=
  if b.toNat < 32 then a.sshiftRight b.toNat else if a.msb then BitVec.allOnes 32 else 0#32

/-- MPYU's result (R188): the unsigned product of the low halves. -/
def mpyuResult (a b : Word) : Word := BitVec.ofNat 32 ((a.extractLsb' 0 16).toNat * (b.extractLsb' 0 16).toNat)

/-- MPYS's result (R189): the signed product of the low halves. -/
def mpysResult (a b : Word) : Word := BitVec.ofInt 32 ((a.extractLsb' 0 16).toInt * (b.extractLsb' 0 16).toInt)

/-- BREV's result (R190): operand B with its bits in the opposite order. -/
def brevResult (_a b : Word) : Word := b.reverse

/-- POPC's result (R191): how many bits of operand B are 1. -/
def popcResult (_a b : Word) : Word := BitVec.ofNat 32 ((List.range 32).countP (fun i => b.getLsbD i))

/-- ROL's result (R192): the amount is operand B modulo 32. -/
def rolResult (a b : Word) : Word := a.rotateLeft (b.extractLsb' 0 5).toNat

/-- SUB (R180). -/
def execSub (dr : RegNum) (f : Form) (s : State) : Outcome := aluOp (fun a b => a - b) subCV dr f s

/-- AND (R181). -/
def execAnd (dr : RegNum) (f : Form) (s : State) : Outcome := aluOp (fun a b => a &&& b) openCV dr f s

/-- ADD (R182). -/
def execAdd (dr : RegNum) (f : Form) (s : State) : Outcome := aluOp (fun a b => a + b) addCV dr f s

/-- OR (R183). -/
def execOr (dr : RegNum) (f : Form) (s : State) : Outcome := aluOp (fun a b => a ||| b) openCV dr f s

/-- XOR (R184). -/
def execXor (dr : RegNum) (f : Form) (s : State) : Outcome := aluOp (fun a b => a ^^^ b) openCV dr f s

/-- LSR (R185). -/
def execLsr (dr : RegNum) (f : Form) (s : State) : Outcome := aluOp lsrResult shiftRightCV dr f s

/-- LSL (R186). -/
def execLsl (dr : RegNum) (f : Form) (s : State) : Outcome := aluOp lslResult shiftLeftCV dr f s

/-- ASR (R187). -/
def execAsr (dr : RegNum) (f : Form) (s : State) : Outcome := aluOp asrResult shiftRightCV dr f s

/-- MPYU (R188). -/
def execMpyu (dr : RegNum) (f : Form) (s : State) : Outcome := aluOp mpyuResult openCV dr f s

/-- MPYS (R189). -/
def execMpys (dr : RegNum) (f : Form) (s : State) : Outcome := aluOp mpysResult openCV dr f s

/-- BREV (R190). -/
def execBrev (dr : RegNum) (f : Form) (s : State) : Outcome := aluOp brevResult openCV dr f s

/-- POPC (R191). -/
def execPopc (dr : RegNum) (f : Form) (s : State) : Outcome := aluOp popcResult openCV dr f s

/-- ROL (R192). -/
def execRol (dr : RegNum) (f : Form) (s : State) : Outcome := aluOp rolResult openCV dr f s

/-- CMP (R193). -/
def execCmp (dr : RegNum) (f : Form) (s : State) : Outcome := compareOp (fun a b => a - b) subCV dr f s

/-- TST (R194). -/
def execTst (dr : RegNum) (f : Form) (s : State) : Outcome := compareOp (fun a b => a &&& b) openCV dr f s

end Sys2Proof.Machine
end

