-- ==== Sys2Proof/Machine/Divide.lean ====
section
/-! DEFINITION. DIVU and DIVS (rules R260 to R262). -/

namespace Sys2Proof.Machine

/-- DIVU (R260): the floor of the unsigned quotient. -/
def execDivu (dr : RegNum) (f : Form) (s : State) : Outcome := divideOp (fun a b => a / b) dr f s

/-- DIVS (R261): the signed quotient rounded toward zero, -2^31 / -1 wrapping. -/
def execDivs (dr : RegNum) (f : Form) (s : State) : Outcome := divideOp (fun a b => a.sdiv b) dr f s

end Sys2Proof.Machine
end

