-- ==== Sys2Proof/Machine/Float.lean ====
section
/-! DEFINITION. The six floating-point instructions (rules R270 to R276). The unit is not built (`HAS_FPU = false`, R6),
so each raises IllegalInstruction whatever its condition bits (R276). -/

namespace Sys2Proof.Machine

/-- FPADD (R270, R276). -/
def execFpadd (_dr : RegNum) (_f : Form) (s : State) : Outcome := illegalOp s

/-- FPSUB (R271, R276). -/
def execFpsub (_dr : RegNum) (_f : Form) (s : State) : Outcome := illegalOp s

/-- FPMPY (R272, R276). -/
def execFpmpy (_dr : RegNum) (_f : Form) (s : State) : Outcome := illegalOp s

/-- FPDIV (R273, R276). -/
def execFpdiv (_dr : RegNum) (_f : Form) (s : State) : Outcome := illegalOp s

/-- FPCVT (R274, R276). -/
def execFpcvt (_dr : RegNum) (_f : Form) (s : State) : Outcome := illegalOp s

/-- FPINT (R275, R276). -/
def execFpint (_dr : RegNum) (_f : Form) (s : State) : Outcome := illegalOp s

end Sys2Proof.Machine
end

