-- ==== Sys2Proof/Machine/LoadStore.lean ====
section
/-! DEFINITION. LOD and STO (rules R240 to R243); the effective address is operand B (R242). -/

namespace Sys2Proof.Machine

/-- LOD (R240): one word read; a bus error writes no register, and without an answer the bus deadlocks (R85). -/
def execLod (dr : RegNum) (f : Form) (s : State) : Outcome :=
  let ea := s.operandB f
  conditional (formCond f) s
    (s.dataAccess .load ea (s.loadEvent ea)
      (match s.memRead ea with
       | .word w t => .next (t.writeReg dr w)
       | .busError t => .next t.raiseBusError))

/-- STO (R241): one word written, the value of DR. -/
def execSto (dr : RegNum) (f : Form) (s : State) : Outcome :=
  let ea := s.operandB f
  let a := s.readReg dr
  conditional (formCond f) s
    (s.dataAccess .store ea (s.storeEvent ea a)
      (match s.memWrite ea a with
       | .done t => .next t
       | .busError t => .next t.raiseBusError))

end Sys2Proof.Machine
end

