-- ==== Sys2Proof/Machine/Move.lean ====
section
/-! DEFINITION. Load immediate and move (rules R220 to R223), and the undefined compact move of an immediate (R110). -/

namespace Sys2Proof.Machine

/-- LDIHI's result (R220): the low half of operand B above the kept low half of DR. -/
def ldihiResult (a b : Word) : Word := b.extractLsb' 0 16 ++ a.extractLsb' 0 16

/-- LDILO's result (R221): the kept high half of DR above the low half of operand B. -/
def ldiloResult (a b : Word) : Word := a.extractLsb' 16 16 ++ b.extractLsb' 0 16

/-- LDIHI (R220). -/
def execLdihi (dr : RegNum) (f : Form) (s : State) : Outcome := loadOp ldihiResult dr f s

/-- LDILO (R221). -/
def execLdilo (dr : RegNum) (f : Form) (s : State) : Outcome := loadOp ldiloResult dr f s

/-- LDI (R222). -/
def execLdi (dr : RegNum) (f : LdiForm) (s : State) : Outcome :=
  conditional (ldiCond f) s (.next (s.writeReg dr (ldiValue f)))

/-- Whether an A or B bit names the other register set: only in supervisor mode (R223, R119). -/
def State.crosses (s : State) (bit : Bool) : Bool := !s.gie && bit

/-- The value a MOV moves (R223): its source register, of the user set where the B bit crosses, plus its offset. -/
def State.movValue (s : State) : MovForm → Word
  | .std _ _ br bUsr imm => (if s.crosses bUsr then s.readUser br else s.readReg br) + imm.signExtend 32
  | .c1 _ br | .c2 _ br => s.readReg br

/-- Whether a MOV's destination is in the other set: where the A bit crosses (R223). -/
def State.movCrosses (s : State) : MovForm → Bool
  | .std _ aUsr _ _ _ => s.crosses aUsr
  | .c1 _ _ | .c2 _ _ => false

/-- MOV (R223). -/
def execMov (dr : RegNum) (f : MovForm) (s : State) : Outcome :=
  conditional (movCond f) s
    (.next (if s.movCrosses f then s.writeUser dr (s.movValue f) else s.writeReg dr (s.movValue f)))

/-- A compact move of an immediate has no meaning and is refused (R110, R115 item 1). -/
def execUndefinedMovImm (_dr : RegNum) (_f : MovImmForm) (_s : State) : Outcome := .refused .compactMovImmediate

end Sys2Proof.Machine
end

