-- ==== Sys2Proof/Machine/Special.lean ====
section
/-! DEFINITION. NOOP, BREAK and LOCK (rules R280 to R282) and the reserved and illegal encodings (R283, R284). -/

namespace Sys2Proof.Machine

/-- NOOP (R280), in a standard word or a half: nothing. -/
def execNoop (_f : SpecialForm) (s : State) : Outcome := .next s

/-- BREAK (R281); in a half of a compact word it is undefined and refused (R115 item 2). -/
def execBreak (f : SpecialForm) (s : State) : Outcome :=
  match f with
  | .std _ _ => .next s.breakTrap
  | .c1 _ _ _ | .c2 _ _ _ => .refused .compactBreak

/-- LOCK (R282); in a half of a compact word it is undefined and refused (R115 item 2). -/
def execLock (f : SpecialForm) (s : State) : Outcome :=
  match f with
  | .std _ _ => .next { s with lockCount := Config.lockSpan }
  | .c1 _ _ _ | .c2 _ _ _ => .refused .compactLock

/-- OpCode 0x1b with DR 14 or 15 (R284). -/
def execIllegal1B (_f : SpecialForm) (s : State) : Outcome := illegalOp s

/-- OpCode 0x1c with DR 14 or 15 (R284). -/
def execIllegal1C (_f : SpecialForm) (s : State) : Outcome := illegalOp s

/-- OpCode 0x1d with DR 14 or 15 (R284). -/
def execIllegal1D (_f : SpecialForm) (s : State) : Outcome := illegalOp s

/-- OpCode 0x1e, reserved (R283). -/
def execReserved1E (_dr : RegNum) (_f : ReservedForm) (s : State) : Outcome := illegalOp s

/-- OpCode 0x1f, reserved (R283). -/
def execReserved1F (_dr : RegNum) (_f : ReservedForm) (s : State) : Outcome := illegalOp s

end Sys2Proof.Machine
end

