-- ==== Sys2Proof/Machine/Dispatch.lean ====
section
/-! DEFINITION. One arm per constructor of Instr: the meaning of each instruction, for the word or half that holds it,
in a state whose `wordAddr` is that word's address and whose PC has moved past it (R150). -/

namespace Sys2Proof.Machine

/-- The meaning of an instruction (R150 `Exec`). -/
def exec (i : Instr) (s : State) : Host.Outcome State Fault Refusal :=
  match i with
  | .sub dr f => Sys2Proof.Machine.execSub dr f s
  | .and dr f => Sys2Proof.Machine.execAnd dr f s
  | .add dr f => Sys2Proof.Machine.execAdd dr f s
  | .or dr f => Sys2Proof.Machine.execOr dr f s
  | .xor dr f => Sys2Proof.Machine.execXor dr f s
  | .lsr dr f => Sys2Proof.Machine.execLsr dr f s
  | .lsl dr f => Sys2Proof.Machine.execLsl dr f s
  | .asr dr f => Sys2Proof.Machine.execAsr dr f s
  | .ldihi dr f => Sys2Proof.Machine.execLdihi dr f s
  | .ldilo dr f => Sys2Proof.Machine.execLdilo dr f s
  | .mpyu dr f => Sys2Proof.Machine.execMpyu dr f s
  | .mpys dr f => Sys2Proof.Machine.execMpys dr f s
  | .brev dr f => Sys2Proof.Machine.execBrev dr f s
  | .popc dr f => Sys2Proof.Machine.execPopc dr f s
  | .rol dr f => Sys2Proof.Machine.execRol dr f s
  | .mov dr f => Sys2Proof.Machine.execMov dr f s
  | .cmp dr f => Sys2Proof.Machine.execCmp dr f s
  | .tst dr f => Sys2Proof.Machine.execTst dr f s
  | .lod dr f => Sys2Proof.Machine.execLod dr f s
  | .sto dr f => Sys2Proof.Machine.execSto dr f s
  | .divu dr f => Sys2Proof.Machine.execDivu dr f s
  | .divs dr f => Sys2Proof.Machine.execDivs dr f s
  | .ldi dr f => Sys2Proof.Machine.execLdi dr f s
  | .fpadd dr f => Sys2Proof.Machine.execFpadd dr f s
  | .fpsub dr f => Sys2Proof.Machine.execFpsub dr f s
  | .fpmpy dr f => Sys2Proof.Machine.execFpmpy dr f s
  | .fpdiv dr f => Sys2Proof.Machine.execFpdiv dr f s
  | .fpcvt dr f => Sys2Proof.Machine.execFpcvt dr f s
  | .fpint dr f => Sys2Proof.Machine.execFpint dr f s
  | .noop f => Sys2Proof.Machine.execNoop f s
  | .brk f => Sys2Proof.Machine.execBreak f s
  | .lock f => Sys2Proof.Machine.execLock f s
  | .illegal1B f => Sys2Proof.Machine.execIllegal1B f s
  | .illegal1C f => Sys2Proof.Machine.execIllegal1C f s
  | .illegal1D f => Sys2Proof.Machine.execIllegal1D f s
  | .reserved1E dr f => Sys2Proof.Machine.execReserved1E dr f s
  | .reserved1F dr f => Sys2Proof.Machine.execReserved1F dr f s
  | .undefinedMovImm dr f => Sys2Proof.Machine.execUndefinedMovImm dr f s

end Sys2Proof.Machine
end

