-- ==== Sys2Proof/Machine/Cycle.lean ====
section
/-! DEFINITION. One step of the CPU around `exec` (R150): the interrupt, the sleep and the fetch, the instruction word
with its two halves (R157), the LOCK span (R282), the step return (R358), and where other bus masters' writes land between
the CPU's accesses (R376). -/

namespace Sys2Proof.Machine

/-- An outcome's next state handed on; a fault or a refusal stays. -/
def Outcome.andThen (o : Outcome) (g : State → Outcome) : Outcome :=
  match o with
  | .next t => g t
  | .fault r => .fault r
  | .refused r => .refused r

/-- The word at `A` begins: its address is latched, the PC moves past it (R28, R150), and it has caused no control event
yet. -/
def State.beginWord (s : State) : State :=
  { s.setPc (s.cur.pc + 1#32) with wordAddr := s.cur.pc, control := false }

/-- The two halves of a compact word (R157): the second runs on what the first left, unless the first caused a control
event. Other bus masters' writes `ws` land between the accesses of the halves (R376, R76). -/
def execHalves (ws : List (Word × Word)) (i j : Instr) (s : State) : Outcome :=
  Outcome.andThen (exec i s) (fun t => if t.control then .next (t.queueWrites ws) else exec j (t.admitWrites ws))

/-- A decoded word (R117, R150): a compact word is illegal as a whole when either half is, before the first half runs
(R113), and has no meaning when either half is an undefined encoding (R115). Where there is no second half to precede, the
writes `ws` wait for the next word. -/
def execWord (ws : List (Word × Word)) (d : CodeWord) (s : State) : Outcome :=
  match d with
  | .single i => Outcome.andThen (exec i s) (fun t => .next (t.queueWrites ws))
  | .pair i j =>
    if d.illegal then .next ((s.raise .illegalInstruction).queueWrites ws)
    else if i.undefinedEncoding then exec i s
    else if j.undefinedEncoding then exec j s
    else execHalves ws i j s

/-- After a word (R150): the LOCK span counts down, and a word that began in user mode with STEP set returns to
supervisor mode (R358), unless it left user mode or halted. A word that is stuck on the bus has no end (R85, R412): its
span, if any, stays. -/
def State.endWord (s : State) (wasUser isLock : Bool) : State :=
  if s.busDeadlocked then s
  else
    let t := if isLock then s else { s with lockCount := s.lockCount - 1 }
    if wasUser && t.gie && t.stepBit && t.halted.isNone then t.stepReturn else t

/-- A fetched word runs (R150), after the writes that other bus masters make once it has been fetched (R376). A LOCK span
that holds anything but its memory instructions is refused (R282). -/
def State.runFetched (s : State) (x : Input) (d : CodeWord) : Outcome :=
  if s.lockCount ≠ 0 ∧ d.lockable = false then .refused .lockSpan
  else
    Outcome.andThen (execWord x.between d (s.admitWrites x.afterFetch).beginWord) (fun t => .next (t.endWord s.gie d.isLock))

/-- A fetch the bus refuses raises IllegalInstruction at the word's own address (R352); a LOCK span ends (R282). -/
def State.fetchFault (s : State) : State := ({ s.beginWord with lockCount := 0 }).raise .illegalInstruction

/-- One step of the CPU with an input, in the priority order of rule R360 (R150 `Step`); while the bus is deadlocked
nothing happens (R85). Where no word runs, the input's later writes wait for the next step. -/
def State.stepWith (s : State) (x : Input) : Outcome :=
  if s.halted.isSome || s.busDeadlocked then .next (s.queueWrites x.later)
  else if s.gie && x.irq && s.lockCount == 0 then .next (s.interruptEntry.queueWrites x.later)
  else if s.sleep then .next (s.queueWrites x.later)
  else if !s.answers .fetch s.cur.pc then .next (s.deadlockBus.queueWrites x.later)
  else
    match s.fetchWord s.cur.pc with
    | .word w t => t.runFetched x (decodeWord w)
    | .busError t => .next (t.fetchFault.queueWrites x.later)

end Sys2Proof.Machine
end

