-- ==== Sys2Proof/Machine/Outside.lean ====
section
/-! DEFINITION. What comes from outside the core at a step: the input, reset (R400) and the external debugger's actions on
a halted CPU (R371, R372). -/

namespace Sys2Proof.Machine

/-- The input of this step: the next one listed, or a quiet one (log entry 6). -/
def State.input (s : State) : Input :=
  match s.inputs with
  | [] => { irq := false, writes := [], afterFetch := [], between := [], host := none }
  | x :: _ => x

/-- The inputs move on by one step. -/
def State.popInput (s : State) : State := { s with inputs := s.inputs.tail }

/-- A reset from outside (R400, R51): the state after reset at the platform's reset address, but memory, which reset does
not change, and what is outside the core stay (log entry 21). -/
def State.applyReset (s : State) : State :=
  { State.resetAt s.resetAddress with
    mem := s.mem
    regions := s.regions
    inputs := s.inputs
    heldWrites := s.heldWrites
    busLog := s.busLog
    draws := s.draws }

/-- The debugger's write of a set's CC register (R372, R38): every bit of storage behind it. GIE is written through the CC
of the set in use; bit 5 of the other set's CC stands for no storage, since it reads as that set's mode (R39). DESIGN
CHOICE (log entry 7), unsafe. -/
def State.debugWriteCC (s : State) (user : Bool) (v : Word) : State :=
  let upd := fun (rs : RegSet) => { rs.putCCBits v with ill := v[8], buserr := v[10], dive := v[11], fpe := v[12] }
  { s with
    sup := if user then s.sup else upd s.sup
    usr := if user then upd s.usr else s.usr
    gie := if user = s.gie then v[5] else s.gie
    sleep := v[4]
    stepBit := v[6]
    breakEn := v[7]
    trap := v[9] }

/-- The debugger's write of any register of either set (R372). -/
def State.debugWriteReg (s : State) (user : Bool) (i : RegNum) (v : Word) : State :=
  if i = ccReg then s.debugWriteCC user v
  else
    let upd := fun (rs : RegSet) => if i = pcReg then { rs with pc := v } else rs.put i v
    if user then { s with usr := upd s.usr } else { s with sup := upd s.sup }

/-- The debugger releases a halted CPU: `halted <- false` and nothing else (R372). A supervisor whose SLEEP is still set
then executes nothing (R150). -/
def State.release (s : State) : State := { s with halted := none }

/-- The debugger steps a halted CPU once and holds it again (R371, R372), unless the bus deadlocks in the step. -/
def State.debugStep (s : State) (x : Input) : Outcome :=
  Outcome.andThen (s.release.stepWith x)
    (fun t => .next (if t.halted.isNone && !t.busDeadlocked then { t with halted := some .debugger } else t))

/-- Whether a host action acts now: a reset at any time, a halt unless the bus is deadlocked, which only a reset ends
(R85), the rest only on a halted CPU (R372). -/
def HostAction.applies (s : State) : HostAction → Bool
  | .reset => true
  | .halt => !s.busDeadlocked
  | .release | .stepOne | .writeReg _ _ _ | .writeMem _ _ => s.halted.isSome

/-- A host action that acts (R372, R400). DESIGN CHOICE (log entry 24), unsafe: a LOCK span in which the debugger holds or
steps the CPU goes on after it, `lock_count` as it was. The debugger is a bus master like any other (R376), so its write of
memory waits inside a span (R282). -/
def State.hostAct (s : State) (x : Input) : HostAction → Outcome
  | .reset => .next (s.applyReset.queueWrites x.later)
  | .halt => .next (({ s with halted := s.halted.or (some .debugger) } : State).queueWrites x.later)
  | .release => .next (s.release.queueWrites x.later)
  | .stepOne => s.debugStep x
  | .writeReg user i v => .next ((s.debugWriteReg user i v).queueWrites x.later)
  | .writeMem a v => .next ((s.admitWrites [(a, v)]).queueWrites x.later)

/-- One step of the whole machine: the input moves on, other masters' writes land, then a host action acts or the CPU
steps (R150). -/
def State.cycle (s : State) : Outcome :=
  let x := s.input
  let t := s.popInput.admitWrites x.writes
  match x.host with
  | some act => if act.applies t then t.hostAct x act else t.stepWith x
  | none => t.stepWith x

/-- The state with an instruction word placed where the next step fetches: in memory at the current PC, with no older
word left there for a fetch to return. -/
def State.placeWord (s : State) (w : Word) : State :=
  { s with
    mem := s.mem.write s.cur.pc.toNat w
    stale := s.stale.filter (fun c => c.1 != s.cur.pc.toNat) }

end Sys2Proof.Machine
end

