-- ==== Sys2Proof/Machine/Step.lean ====
section
/-! DEFINITION. The step function, and the placing of one instruction word where it fetches next. -/

namespace Sys2Proof.Machine

/-- One step of the machine (R150). -/
def step (s : State) : Host.Outcome State Fault Refusal := s.cycle

/-- `s` with the instruction whose bits are `w` (numbered from the least significant, the bits above `nbits` zero) stored
where `step` fetches its next instruction word (log entry 2). -/
def State.withFetchWord (s : State) (nbits w : Nat) : State := s.placeWord (BitVec.ofNat 32 (w % 2 ^ nbits))

end Sys2Proof.Machine
end

