-- ==== Sys2Proof/Safety.lean ====
section
/-! DEFINITION. What counts as a safe state and a safe step: the invariants of the reachable states, and the platforms on
which no access is left unanswered. -/

namespace Sys2Proof.Machine

/-- What every step keeps whatever comes from outside, and reset establishes: memory in canonical form; a LOCK span of at
most `LOCK_SPAN` words (R282); no halted CPU on a deadlocked bus, since it never got so far (R85, log entry 19). -/
structure State.Sound (s : State) : Prop where
  memory : s.mem.wf
  lockSpan : s.lockCount ≤ Config.lockSpan
  stuckNotHalted : s.busDeadlocked = true → s.halted = none

/-- What besides every step keeps in which the debugger writes no CC register and releases no sleeping supervisor (log
entry 7): FPE 0 in both sets, since nothing raises it (R355); a CPU asleep only in user mode or halted (R31); and in user
mode neither TRAP nor a user cause bit set, since entering user mode clears them (R363). -/
structure State.Inv (s : State) : Prop extends State.Sound s where
  supFpe : s.sup.fpe = false
  usrFpe : s.usr.fpe = false
  asleep : s.sleep = true → s.gie = true ∨ s.halted.isSome = true
  noStaleCause : s.gie = true →
    s.trap = false ∧ s.usr.ill = false ∧ s.usr.buserr = false ∧ s.usr.dive = false

/-- A platform on which every access is answered, with a word, an acknowledgement or a bus error (R412), and a bus that is
not deadlocked. -/
def State.AlwaysAnswered (s : State) : Prop := s.busDeadlocked = false ∧ ∀ g ∈ s.regions, g.silent = []

/-- A live outcome: a next state in which the bus is not deadlocked. A refusal is not one. -/
def Outcome.Live (o : Outcome) : Prop := ∃ t, o = .next t ∧ t.busDeadlocked = false

end Sys2Proof.Machine
end

