-- ==== Sys2Proof/Certificates/Slice0/Obligations.lean ====
section
/-! DEFINITION. The statements for the provers, and the vocabulary they are written in. -/

namespace Sys2Proof.Claims

open Sys2Proof.Machine

/-! ### Vocabulary -/

/-- Whether an exact signed result does not fit 32 signed bits (R158, "signed overflow"). -/
def overflows (n : Int) : Bool := decide (n < -2 ^ 31 ∨ 2 ^ 31 ≤ n)

/-- `t` is `u` but for the flags of the current set and the draw counter, and those flags are a result's (R158): Z and N
always, C and V where a value is given; with `none` the flag is any value (`any_1()`). -/
def FlagsSet (u t : State) (r : Word) (c v : Option Bool) : Prop :=
  t.cur.flags.z = decide (r = 0#32) ∧ t.cur.flags.n = r.msb ∧
  (∀ b, c = some b → t.cur.flags.c = b) ∧ (∀ b, v = some b → t.cur.flags.v = b) ∧
  { t.setCur { t.cur with flags := u.cur.flags } with draws := u.draws } = u

/-- `r` has been written to DR (R156, `State.writeReg`), and then, for an unconditional instruction whose DR is not CC,
the flags (R153). -/
def ResultWritten (s t : State) (dr : RegNum) (cnd : Cond) (r : Word) (c v : Option Bool) : Prop :=
  if cnd = .always ∧ dr ≠ ccReg then FlagsSet (s.writeReg dr r) t r c v else t = s.writeReg dr r

/-- C after a shift by `n` whose last bit shifted out is `last` (R158): clear for no shift, a draw for 32 or more. -/
def shiftCarry (n : Nat) (last : Bool) : Option Bool := if n = 0 then some false else if n < 32 then some last else none

/-- What every entry to supervisor mode leaves (R361): GIE, SLEEP, STEP and `lock_count` are 0, and neither the supervisor
set, nor registers 0 to 13 of the user set, nor memory, nor BREAKEN has changed. -/
def EnteredSupervisor (s t : State) : Prop :=
  t.gie = false ∧ t.sleep = false ∧ t.stepBit = false ∧ t.lockCount = 0 ∧ t.sup = s.sup ∧ t.usr.gen = s.usr.gen ∧
  t.mem = s.mem ∧ t.breakEn = s.breakEn ∧ t.halted = s.halted

/-- The register an instruction's result goes to, if it writes one (R112, R156). -/
def destination : Instr → Option RegNum
  | .sub dr _ | .and dr _ | .add dr _ | .or dr _ | .xor dr _ | .lsr dr _ | .lsl dr _ | .asr dr _
  | .ldihi dr _ | .ldilo dr _ | .mpyu dr _ | .mpys dr _ | .brev dr _ | .popc dr _ | .rol dr _
  | .lod dr _ | .divu dr _ | .divs dr _ => some dr
  | .mov dr _ => some dr
  | .ldi dr _ => some dr
  | .cmp _ _ | .tst _ _ | .sto _ _ => none
  | .fpadd _ _ | .fpsub _ _ | .fpmpy _ _ | .fpdiv _ _ | .fpcvt _ _ | .fpint _ _ => none
  | .noop _ | .brk _ | .lock _ | .illegal1B _ | .illegal1C _ | .illegal1D _ => none
  | .reserved1E _ _ | .reserved1F _ _ | .undefinedMovImm _ _ => none

/-- The register of the user set that a supervisor-mode instruction names as its destination: MOV's A bit (R103). -/
def userDestination : Instr → Option RegNum
  | .mov dr (.std _ true _ _ _) => some dr
  | _ => none

/-- Whether an instruction writes the flags other than through CC as its destination (R153 clauses 1 and 3). -/
def writesFlags : Instr → Bool
  | .sub _ f | .and _ f | .add _ f | .or _ f | .xor _ f | .lsr _ f | .lsl _ f | .asr _ f
  | .mpyu _ f | .mpys _ f | .brev _ f | .popc _ f | .rol _ f | .divu _ f | .divs _ f => formCond f == .always
  | .cmp _ _ | .tst _ _ => true
  | _ => false

/-- The condition an instruction carries, for the conditional ones (R151). -/
def condition : Instr → Option Cond
  | .sub _ f | .and _ f | .add _ f | .or _ f | .xor _ f | .lsr _ f | .lsl _ f | .asr _ f
  | .ldihi _ f | .ldilo _ f | .mpyu _ f | .mpys _ f | .brev _ f | .popc _ f | .rol _ f
  | .cmp _ f | .tst _ f | .lod _ f | .sto _ f | .divu _ f | .divs _ f => some (formCond f)
  | .mov _ f => some (movCond f)
  | .ldi _ f => some (ldiCond f)
  | _ => none

/-- An instruction that can only write a register and the flags: it takes no exception, accesses no memory and is no
BREAK, LOCK or refused encoding. -/
def plain : Instr → Bool
  | .sub _ _ | .and _ _ | .add _ _ | .or _ _ | .xor _ _ | .lsr _ _ | .lsl _ _ | .asr _ _
  | .ldihi _ _ | .ldilo _ _ | .mpyu _ _ | .mpys _ _ | .brev _ _ | .popc _ _ | .rol _ _
  | .mov _ _ | .cmp _ _ | .tst _ _ | .ldi _ _ | .noop _ => true
  | _ => false

/-- An outcome's next state changed by a function. -/
def mapNext (g : State → State) : Outcome → Outcome
  | .next t => .next (g t)
  | .fault r => .fault r
  | .refused r => .refused r

/-- The state of a step once its input has been taken and other bus masters' writes admitted (R376). -/
def arrived (s : State) : State := s.popInput.admitWrites s.input.writes

/-- The state after a step at which the CPU does nothing: other masters' later writes wait. -/
def idled (s : State) : State := (arrived s).queueWrites s.input.later

/-- The CPU fetches and runs a word at this step (R150, R360 items 1 to 3), and the environment answers the fetch (R85). -/
def Running (s : State) (x : Input) : Prop :=
  s.halted = none ∧ s.busDeadlocked = false ∧ s.sleep = false ∧ ¬ (s.gie = true ∧ x.irq = true ∧ s.lockCount = 0) ∧
  s.answers .fetch s.cur.pc = true

/-- No action of the debugger at this step writes a CC register (log entry 7). -/
def NoDebugCC (s : State) : Prop := ∀ u v, s.input.host ≠ some (.writeReg u ccReg v)

/-- What a memory word is after writes to it, oldest first: the last one's value. -/
def lastWrite (ws : List (Word × Word)) (a : Word) : Option Word := (ws.reverse.find? (fun w => w.1 == a)).map (fun w => w.2)

/-- The name by which an undefined encoding is refused (R115 items 1 and 2). -/
def refusalOf : Instr → Option Refusal
  | .undefinedMovImm _ _ => some .compactMovImmediate
  | .brk (.c1 _ _ _) | .brk (.c2 _ _ _) => some .compactBreak
  | .lock (.c1 _ _ _) | .lock (.c2 _ _ _) => some .compactLock
  | _ => none

/-- What a program can name of the user set replaced: registers 0 to 13, PC, flags and CC bits 31:13. -/
def withUserRegisters (r : RegSet) (s : State) : State :=
  { s with usr := { s.usr with gen := r.gen, pc := r.pc, flags := r.flags, hi := r.hi } }

/-- The instructions of the opcodes with operand B, by OpCode (R112). -/
def operandBInstr (op : Nat) : Option (RegNum → Form → Instr) :=
  match op with
  | 0x00 => some .sub
  | 0x01 => some .and
  | 0x02 => some .add
  | 0x03 => some .or
  | 0x04 => some .xor
  | 0x05 => some .lsr
  | 0x06 => some .lsl
  | 0x07 => some .asr
  | 0x08 => some .ldihi
  | 0x09 => some .ldilo
  | 0x0a => some .mpyu
  | 0x0b => some .mpys
  | 0x0c => some .brev
  | 0x0d => some .popc
  | 0x0e => some .rol
  | 0x10 => some .cmp
  | 0x11 => some .tst
  | 0x12 => some .lod
  | 0x13 => some .sto
  | 0x14 => some .divu
  | 0x15 => some .divs
  | _ => none

/-- Bits `lo` up to `lo + n - 1` of a word as a number, by division (R7). -/
def bitsOf (w : Word) (lo n : Nat) : Nat := w.toNat / 2 ^ lo % 2 ^ n

end Sys2Proof.Claims

open Sys2Proof Sys2Proof.Machine Sys2Proof.Claims

/-! ### Encoding -/

/-- Decoding an encoded well-formed word gives it back, with every operand at every value (R100 to R117). -/
def Obligations.DecodeOfEncodeIsIdentity : Prop :=
  ∀ c : CodeWord, c.wellFormed = true → decodeWord (encodeWord c) = c

/-- Every 32-bit word decodes to a well-formed word, and encoding that gives the word back: no bit is dropped. -/
def Obligations.EncodeOfDecodeIsIdentity : Prop :=
  ∀ w : Word, (decodeWord w).wellFormed = true ∧ encodeWord (decodeWord w) = w

/-- Rules R101 and R102 for the opcodes with operand B: the fields of a standard word by their bit numbers, and what
operand B is in each format. That the sum wraps is decision D38 of the spec. -/
def Obligations.StandardWordsHoldTheirFields : Prop :=
  (∀ (s : State) (cnd : Cond) (imm : BitVec 18), s.operandB (.stdImm cnd imm) = imm.signExtend 32) ∧
  (∀ (s : State) (cnd : Cond) (br : RegNum) (imm : BitVec 14),
    s.operandB (.stdReg cnd br imm) = s.readReg br + imm.signExtend 32) ∧
  ∀ (w : Word) (mk : RegNum → Form → Instr), bitsOf w 31 1 = 0 → operandBInstr (bitsOf w 22 5) = some mk →
    decodeWord w = .single (mk (BitVec.ofNat 4 (bitsOf w 27 4))
      (if bitsOf w 18 1 = 0 then .stdImm (Cond.ofBits (BitVec.ofNat 3 (bitsOf w 19 3))) (BitVec.ofNat 18 (bitsOf w 0 18))
       else .stdReg (Cond.ofBits (BitVec.ofNat 3 (bitsOf w 19 3))) (BitVec.ofNat 4 (bitsOf w 14 4))
         (BitVec.ofNat 14 (bitsOf w 0 14))))

/-- Rules R106, R109 and R110: the two halves of a compact word by their bit numbers, the first in the higher bits: the
instructions with operand B, LDI, MOV and the undefined move of an immediate, NOOP, BREAK and LOCK. Illegal halves are
stated apart. The blank bit of LDI, bits 27 and 10 and the low bits of the special encodings are kept in the term and change
nothing. The layouts of LDI, MOV and the special encodings are decisions D15, D16 and D18 of the spec. -/
def Obligations.CompactWordsHoldTwoHalves : Prop :=
  (∀ w : Word, bitsOf w 31 1 = 1 →
    let v := BitVec.ofNat 3 (bitsOf w 19 3)
    let dr1 := BitVec.ofNat 4 (bitsOf w 27 4)
    let f1 := BitVec.ofNat 4 (bitsOf w 14 4)
    let low1 := BitVec.ofNat 5 (bitsOf w 14 5)
    let dr2 := BitVec.ofNat 4 (bitsOf w 10 4)
    let f2 := BitVec.ofNat 4 (bitsOf w 0 4)
    let low2 := BitVec.ofNat 5 (bitsOf w 0 5)
    ∃ i j, decodeWord w = .pair i j ∧
      (∀ mk, operandBInstr (bitsOf w 22 5) = some mk →
        i = mk dr1 (if bitsOf w 18 1 = 0 then .c1Imm v f1 else .c1Reg v f1)) ∧
      (bitsOf w 23 4 = 0xb → i = .ldi dr1 (.c1 (decide (bitsOf w 22 1 = 1)) v low1)) ∧
      (bitsOf w 22 5 = 0xf → i = if bitsOf w 18 1 = 0 then .undefinedMovImm dr1 (.c1 v f1) else .mov dr1 (.c1 v f1)) ∧
      (bitsOf w 28 3 = 7 →
        (bitsOf w 22 5 = 0x18 → i = .noop (.c1 (decide (bitsOf w 27 1 = 1)) v low1)) ∧
        (bitsOf w 22 5 = 0x19 → i = .brk (.c1 (decide (bitsOf w 27 1 = 1)) v low1)) ∧
        (bitsOf w 22 5 = 0x1a → i = .lock (.c1 (decide (bitsOf w 27 1 = 1)) v low1))) ∧
      (∀ mk, operandBInstr (bitsOf w 5 5) = some mk →
        j = mk dr2 (if bitsOf w 4 1 = 0 then .c2Imm v f2 else .c2Reg v f2)) ∧
      (bitsOf w 6 4 = 0xb → j = .ldi dr2 (.c2 (decide (bitsOf w 5 1 = 1)) v low2)) ∧
      (bitsOf w 5 5 = 0xf → j = if bitsOf w 4 1 = 0 then .undefinedMovImm dr2 (.c2 v f2) else .mov dr2 (.c2 v f2)) ∧
      (bitsOf w 11 3 = 7 →
        (bitsOf w 5 5 = 0x18 → j = .noop (.c2 (decide (bitsOf w 10 1 = 1)) v low2)) ∧
        (bitsOf w 5 5 = 0x19 → j = .brk (.c2 (decide (bitsOf w 10 1 = 1)) v low2)) ∧
        (bitsOf w 5 5 = 0x1a → j = .lock (.c2 (decide (bitsOf w 10 1 = 1)) v low2)))) ∧
  (∀ (dr : RegNum) (v : BitVec 3) (x : BitVec 5) (s : State),
    exec (.ldi dr (.c1 true v x)) s = exec (.ldi dr (.c1 false v x)) s ∧
    exec (.ldi dr (.c2 true v x)) s = exec (.ldi dr (.c2 false v x)) s) ∧
  (∀ (l l' : Bool) (v v' : BitVec 3) (x x' : BitVec 5) (s : State),
    exec (.noop (.c1 l v x)) s = exec (.noop (.c1 l' v' x')) s ∧ exec (.noop (.c2 l v x)) s = exec (.noop (.c2 l' v' x')) s ∧
    exec (.brk (.c1 l v x)) s = exec (.brk (.c1 l' v' x')) s ∧ exec (.brk (.c2 l v x)) s = exec (.brk (.c2 l' v' x')) s ∧
    exec (.lock (.c1 l v x)) s = exec (.lock (.c1 l' v' x')) s ∧ exec (.lock (.c2 l v x)) s = exec (.lock (.c2 l' v' x')) s)

/-- Rules R103, R104 and R105 on standard words. That NOOP, BREAK and LOCK ignore bits 27 and 21:0 is decision D18 of the
spec; here those bits are kept in the term. -/
def Obligations.MoveLoadImmediateAndSpecialWords : Prop :=
  ∀ w : Word, bitsOf w 31 1 = 0 →
    (bitsOf w 22 5 = 0x0f → decodeWord w = .single (.mov (BitVec.ofNat 4 (bitsOf w 27 4))
      (.std (Cond.ofBits (BitVec.ofNat 3 (bitsOf w 19 3))) (decide (bitsOf w 18 1 = 1)) (BitVec.ofNat 4 (bitsOf w 14 4))
        (decide (bitsOf w 13 1 = 1)) (BitVec.ofNat 13 (bitsOf w 0 13))))) ∧
    (bitsOf w 23 4 = 0xb → decodeWord w = .single (.ldi (BitVec.ofNat 4 (bitsOf w 27 4))
      (.std (BitVec.ofNat 23 (bitsOf w 0 23))))) ∧
    (bitsOf w 28 3 = 7 →
      (bitsOf w 22 5 = 0x18 → ∃ l x, decodeWord w = .single (.noop (.std l x))) ∧
      (bitsOf w 22 5 = 0x19 → ∃ l x, decodeWord w = .single (.brk (.std l x))) ∧
      (bitsOf w 22 5 = 0x1a → ∃ l x, decodeWord w = .single (.lock (.std l x))))

/-- The illegal encodings of decisions D19 and D20 of the spec, by their bits: a standard word of opcode 0x1e or 0x1f, of
0x18 to 0x1d with DR 0 to 13, or of 0x1b to 0x1d with DR 14 or 15; a compact word with such a half. -/
def Obligations.IllegalWordsByTheirBits : Prop :=
  let bad := fun op dr => decide (op = 0x1e ∨ op = 0x1f ∨ (0x18 ≤ op ∧ op ≤ 0x1d ∧ dr < 14) ∨ (0x1b ≤ op ∧ op ≤ 0x1d))
  ∀ w : Word,
    (bitsOf w 31 1 = 0 → (decodeWord w).illegal = bad (bitsOf w 22 5) (bitsOf w 27 4)) ∧
    (bitsOf w 31 1 = 1 → (decodeWord w).illegal =
      (bad (bitsOf w 22 5) (bitsOf w 27 4) || bad (bitsOf w 5 5) (bitsOf w 10 4)))

/-- Words the spec prints decode to the instructions it prints beside them (a sanity statement). -/
def Obligations.PrintedWordsDecode : Prop :=
  decodeWord 0x00844000#32 = .single (.add 0#4 (.stdReg .always 1#4 0#14)) ∧
  decodeWord 0x0C100047#32 = .single (.cmp 1#4 (.stdImm .z 0x47#18)) ∧
  decodeWord 0x7C87C000#32 = .single (.lod 15#4 (.stdReg .always 15#4 0#14)) ∧
  decodeWord 0x13C4E000#32 = .single (.mov 2#4 (.std .always true 3#4 true 0#13)) ∧
  decodeWord 0x0DFFFFFF#32 = .single (.ldi 1#4 (.std 0x7FFFFF#23)) ∧
  decodeWord 0x76800000#32 = .single (.lock (.std false 0#22)) ∧
  decodeWord 0x80B84441#32 = .pair (.add 0#4 (.c1Imm 7#3 1#4)) (.add 1#4 (.c2Imm 7#3 1#4)) ∧
  decodeWord 0x8D87CACF#32 = .pair (.ldi 1#4 (.c1 false 0#3 31#5)) (.ldi 2#4 (.c2 false 0#3 15#5))

/-! ### Registers, the CC register, conditions and operands -/

/-- Rule R20: registers 0 to 13 of each set are plain storage. What is written is read back, no other register of either
set changes, and nothing else does. -/
def Obligations.GeneralRegistersArePlainStorage : Prop :=
  ∀ (s : State) (i : RegNum) (v : Word), i.toNat < 14 →
    (s.writeReg i v).readReg i = v ∧
    (∀ j : RegNum, j ≠ i → j.toNat < 14 → (s.writeReg i v).readReg j = s.readReg j) ∧
    (s.writeUser i v).readUser i = v ∧
    (∀ j : RegNum, j ≠ i → j.toNat < 14 → (s.writeUser i v).readUser j = s.readUser j) ∧
    (s.gie = true → (s.writeReg i v).sup = s.sup ∧
      { s.writeReg i v with usr := { (s.writeReg i v).usr with gen := s.usr.gen } } = s) ∧
    (s.gie = false → (s.writeReg i v).usr = s.usr ∧
      { s.writeReg i v with sup := { (s.writeReg i v).sup with gen := s.sup.gen } } = s) ∧
    { s.writeUser i v with usr := { (s.writeUser i v).usr with gen := s.usr.gen } } = s

/-- Rule R29: each bit of CC, read as register 14 of the current set. -/
def Obligations.CcBitsReadInTheirPlaces : Prop :=
  ∀ s : State,
    (s.readReg ccReg)[0] = s.cur.flags.z ∧ (s.readReg ccReg)[1] = s.cur.flags.c ∧
    (s.readReg ccReg)[2] = s.cur.flags.n ∧ (s.readReg ccReg)[3] = s.cur.flags.v ∧
    (s.readReg ccReg)[4] = s.sleep ∧ (s.readReg ccReg)[5] = s.gie ∧ (s.readReg ccReg)[6] = s.stepBit ∧
    (s.readReg ccReg)[7] = s.breakEn ∧ (s.readReg ccReg)[8] = s.cur.ill ∧ (s.readReg ccReg)[9] = s.trap ∧
    (s.readReg ccReg)[10] = s.cur.buserr ∧ (s.readReg ccReg)[11] = s.cur.dive ∧ (s.readReg ccReg)[12] = s.cur.fpe ∧
    (s.readReg ccReg).toNat / 2 ^ 13 = s.cur.hi.toNat

/-- The PCs and the user CC as operands. Reading the own PC gives the word's address plus 1 (decision D1 of the spec) and
writing it is a jump that changes the stored PC of the current set only. A supervisor-mode MOV reads and writes the user
PC as stored, with no bias and no jump (D37), reads bit 5 of the user CC as 1 (D5), and of it writes the flags and bits
31:13 only (D7). -/
def Obligations.ProgramCountersAndUserCcAsOperands : Prop :=
  ∀ (s : State) (v : Word),
    s.readReg pcReg = s.wordAddr + 1#32 ∧ (s.writeReg pcReg v).cur.pc = v ∧ (s.writeReg pcReg v).control = true ∧
    (s.gie = true → (s.writeReg pcReg v).sup = s.sup) ∧ (s.gie = false → (s.writeReg pcReg v).usr = s.usr) ∧
    { (s.writeReg pcReg v).setCur { (s.writeReg pcReg v).cur with pc := s.cur.pc } with control := s.control } = s ∧
    s.readUser pcReg = s.usr.pc ∧ s.writeUser pcReg v = { s with usr := { s.usr with pc := v } } ∧
    (s.readUser ccReg).toNat =
      s.usr.flags.z.toNat + 2 * s.usr.flags.c.toNat + 4 * s.usr.flags.n.toNat + 8 * s.usr.flags.v.toNat +
      16 * s.sleep.toNat + 32 + 64 * s.stepBit.toNat + 128 * s.breakEn.toNat + 256 * s.usr.ill.toNat +
      512 * s.trap.toNat + 1024 * s.usr.buserr.toNat + 2048 * s.usr.dive.toNat + 4096 * s.usr.fpe.toNat +
      8192 * s.usr.hi.toNat ∧
    s.writeUser ccReg v = { s with usr := { s.usr with
      flags := { z := v[0], c := v[1], n := v[2], v := v[3] }, hi := BitVec.ofNat 19 (v.toNat / 2 ^ 13) } }

/-- Writing the own CC (decision D6 of the spec; the user bits cleared on a return are D23). In supervisor mode bit 5 set
returns to user mode, and bit 5 clear with bit 4 set halts. In user mode with bit 5 set only the flags, bits 31:13 and
SLEEP change; bit 5 clear is a trap, stated apart. -/
def Obligations.WritesOfTheOwnCc : Prop :=
  (∀ (s : State) (v : Word), s.gie = true → v[5] = true →
    let t := s.writeReg ccReg v
    t.usr = { s.usr with flags := { z := v[0], c := v[1], n := v[2], v := v[3] }, hi := BitVec.ofNat 19 (v.toNat / 2 ^ 13) } ∧
    t.sleep = v[4] ∧ t.gie = true ∧ t.stepBit = s.stepBit ∧ t.breakEn = s.breakEn ∧ t.trap = s.trap ∧ t.sup = s.sup ∧
    t.mem = s.mem ∧ t.halted = s.halted ∧ t.lockCount = s.lockCount) ∧
  ∀ (s : State) (v : Word), s.gie = false →
    let t := s.writeReg ccReg v
    t.sup.flags = { z := v[0], c := v[1], n := v[2], v := v[3] } ∧ t.sup.hi.toNat = v.toNat / 2 ^ 13 ∧
    t.sleep = v[4] ∧ t.gie = v[5] ∧ t.stepBit = v[6] ∧ t.breakEn = v[7] ∧
    t.sup.gen = s.sup.gen ∧ t.sup.ill = s.sup.ill ∧ t.sup.buserr = s.sup.buserr ∧ t.sup.dive = s.sup.dive ∧
    t.sup.fpe = s.sup.fpe ∧ t.mem = s.mem ∧ t.lockCount = s.lockCount ∧
    (v[5] = true → t.sup.pc = s.wordAddr + 1#32 ∧ t.trap = false ∧ t.halted = s.halted ∧
      t.usr = { s.usr with ill := false, buserr := false, dive := false, fpe := false }) ∧
    (v[5] = false → t.sup.pc = s.sup.pc ∧ t.trap = s.trap ∧ t.usr = s.usr ∧
      t.halted = if v[4] then some .sleepInSupervisor else s.halted)

/-- Rule R356: a user-mode write of CC with bit 5 clear is a trap. The write's flags and bits 31:13 take effect, SLEEP
is cleared (decision D9 of the spec), TRAP is set, and the saved PC is the address after the word (decision D22). -/
def Obligations.UserWriteOfCcClearingGieTraps : Prop :=
  ∀ (s : State) (v : Word), s.gie = true → v[5] = false →
    let t := s.writeReg ccReg v
    EnteredSupervisor s t ∧ t.trap = true ∧
    t.usr = { s.usr with
      flags := { z := v[0], c := v[1], n := v[2], v := v[3] }, hi := BitVec.ofNat 19 (v.toNat / 2 ^ 13)
      pc := s.wordAddr + 1#32 }

/-- Rules R151 and R107: the eight conditions, on the flags of the current set; standard LDI, NOOP, BREAK and LOCK have
none; the shared condition of a compact word, on the first half and, when its top bit is set, on the second. -/
def Obligations.ConditionsTestTheFlags : Prop :=
  (∀ f : Flags,
    condHolds f (Cond.ofBits 0#3) = true ∧ condHolds f (Cond.ofBits 1#3) = f.n ∧ condHolds f (Cond.ofBits 2#3) = f.z ∧
    condHolds f (Cond.ofBits 3#3) = !f.z ∧ condHolds f (Cond.ofBits 4#3) = (!f.n && !f.z) ∧
    condHolds f (Cond.ofBits 5#3) = !f.n ∧ condHolds f (Cond.ofBits 6#3) = f.c ∧ condHolds f (Cond.ofBits 7#3) = f.v) ∧
  (∀ dr imm (s : State), exec (.ldi dr (.std imm)) s = .next (s.writeReg dr (imm.signExtend 32))) ∧
  (∀ (l : Bool) (x y : BitVec 22) (s : State),
    exec (.noop (.std l x)) s = exec (.noop (.std l y)) s ∧ exec (.brk (.std l x)) s = exec (.brk (.std l y)) s ∧
    exec (.lock (.std l x)) s = exec (.lock (.std l y)) s) ∧
  (∀ v : BitVec 3,
    (∀ imm, (formCond (.c1Imm v imm)).bits.toNat = v.toNat % 4) ∧ (∀ br, (formCond (.c1Reg v br)).bits.toNat = v.toNat % 4) ∧
    (∀ imm, (formCond (.c2Imm v imm)).bits.toNat = if 4 ≤ v.toNat then v.toNat % 4 else 0) ∧
    (∀ br, (formCond (.c2Reg v br)).bits.toNat = if 4 ≤ v.toNat then v.toNat % 4 else 0))

/-- Operand B of every form. That a compact immediate is signed and that the sum wraps are decisions D14 and D38 of the
spec. -/
def Obligations.OperandBOfEveryForm : Prop :=
  ∀ (s : State) (cnd : Cond) (v : BitVec 3) (br : RegNum),
    (∀ imm, (s.operandB (.stdImm cnd imm)).toInt = imm.toInt) ∧
    (∀ imm, (s.operandB (.stdReg cnd br imm)).toInt = ((s.readReg br).toInt + imm.toInt).bmod (2 ^ 32)) ∧
    (∀ imm, (s.operandB (.c1Imm v imm)).toInt = imm.toInt) ∧ (∀ imm, (s.operandB (.c2Imm v imm)).toInt = imm.toInt) ∧
    s.operandB (.c1Reg v br) = s.readReg br ∧ s.operandB (.c2Reg v br) = s.readReg br

/-- An instruction whose condition does not hold has no effect at all (the first sentence of rule R152). -/
def Obligations.FalseConditionHasNoEffect : Prop :=
  ∀ (i : Instr) (cnd : Cond) (s : State), condition i = some cnd → condHolds s.cur.flags cnd = false → exec i s = .next s

/-! ### The instructions -/

/-- SUB and ADD: the wrapped sum or difference, C the borrow or carry out, V the signed overflow. C and V are decision D11
of the spec. -/
def Obligations.SubtractAndAdd : Prop :=
  ∀ (dr : RegNum) (f : Form) (s : State), condHolds s.cur.flags (formCond f) = true →
    let a := s.readReg dr
    let b := s.operandB f
    (∃ t, exec (.sub dr f) s = .next t ∧
      ResultWritten s t dr (formCond f) (BitVec.ofInt 32 (a.toInt - b.toInt)) (some (decide (a.toNat < b.toNat)))
        (some (overflows (a.toInt - b.toInt)))) ∧
    (∃ t, exec (.add dr f) s = .next t ∧
      ResultWritten s t dr (formCond f) (BitVec.ofInt 32 (a.toInt + b.toInt)) (some (decide (2 ^ 32 ≤ a.toNat + b.toNat)))
        (some (overflows (a.toInt + b.toInt))))

/-- Rules R181, R183 and R184: AND, OR and XOR bit by bit; C and V are any value. -/
def Obligations.BitwiseAndOrXor : Prop :=
  ∀ (dr : RegNum) (f : Form) (s : State), condHolds s.cur.flags (formCond f) = true →
    let a := s.readReg dr
    let b := s.operandB f
    (∃ r t, (∀ k < 32, r.getLsbD k = (a.getLsbD k && b.getLsbD k)) ∧ exec (.and dr f) s = .next t ∧
      ResultWritten s t dr (formCond f) r none none) ∧
    (∃ r t, (∀ k < 32, r.getLsbD k = (a.getLsbD k || b.getLsbD k)) ∧ exec (.or dr f) s = .next t ∧
      ResultWritten s t dr (formCond f) r none none) ∧
    (∃ r t, (∀ k < 32, r.getLsbD k = (a.getLsbD k ^^ b.getLsbD k)) ∧ exec (.xor dr f) s = .next t ∧
      ResultWritten s t dr (formCond f) r none none)

/-- LSR, LSL and ASR by the whole unsigned operand B: the floor of a division by a power of two, or a product with one.
That the amount may be 32 or more, and C, are decisions D12 and D11 of the spec. -/
def Obligations.ShiftsByTheWholeOperand : Prop :=
  ∀ (dr : RegNum) (f : Form) (s : State), condHolds s.cur.flags (formCond f) = true →
    let a := s.readReg dr
    let n := (s.operandB f).toNat
    (∃ t, exec (.lsr dr f) s = .next t ∧
      ResultWritten s t dr (formCond f) (BitVec.ofNat 32 (a.toNat / 2 ^ n)) (shiftCarry n (a.getLsbD (n - 1))) none) ∧
    (∃ t, exec (.lsl dr f) s = .next t ∧
      ResultWritten s t dr (formCond f) (BitVec.ofNat 32 (a.toNat * 2 ^ n)) (shiftCarry n (a.getLsbD (32 - n))) none) ∧
    (∃ t, exec (.asr dr f) s = .next t ∧
      ResultWritten s t dr (formCond f) (BitVec.ofInt 32 (a.toInt / 2 ^ n)) (shiftCarry n (a.getLsbD (n - 1))) none)

/-- MPYU and MPYS: the whole 32-bit product of the low halves, unsigned or signed, never wrapped. Which halves are
multiplied is decision D41 of the spec. -/
def Obligations.MultipliesOfTheLowHalves : Prop :=
  ∀ (dr : RegNum) (f : Form) (s : State), condHolds s.cur.flags (formCond f) = true →
    let a := s.readReg dr
    let b := s.operandB f
    (∃ r t, r.toNat = a.toNat % 2 ^ 16 * (b.toNat % 2 ^ 16) ∧ exec (.mpyu dr f) s = .next t ∧
      ResultWritten s t dr (formCond f) r none none) ∧
    (∃ r t, r.toInt = a.toInt.bmod (2 ^ 16) * b.toInt.bmod (2 ^ 16) ∧ exec (.mpys dr f) s = .next t ∧
      ResultWritten s t dr (formCond f) r none none)

/-- Rules R190, R191 and R192: BREV, POPC and ROL. -/
def Obligations.ReverseCountAndRotate : Prop :=
  ∀ (dr : RegNum) (f : Form) (s : State), condHolds s.cur.flags (formCond f) = true →
    let a := s.readReg dr
    let b := s.operandB f
    (∃ r t, (∀ k < 32, r.getLsbD k = b.getLsbD (31 - k)) ∧ exec (.brev dr f) s = .next t ∧
      ResultWritten s t dr (formCond f) r none none) ∧
    (∃ r t, r.toNat = ((Finset.range 32).filter (fun k => b.getLsbD k = true)).card ∧ exec (.popc dr f) s = .next t ∧
      ResultWritten s t dr (formCond f) r none none) ∧
    (∃ r t, (∀ k < 32, r.getLsbD ((k + b.toNat) % 32) = a.getLsbD k) ∧ exec (.rol dr f) s = .next t ∧
      ResultWritten s t dr (formCond f) r none none)

/-- CMP and TST write no register and set the flags in every form that executes, conditional or not. CMP's C and V are
decision D11 of the spec. -/
def Obligations.CompareAndTestSetOnlyFlags : Prop :=
  ∀ (dr : RegNum) (f : Form) (s : State), condHolds s.cur.flags (formCond f) = true →
    let a := s.readReg dr
    let b := s.operandB f
    (∃ t, exec (.cmp dr f) s = .next t ∧
      FlagsSet s t (BitVec.ofInt 32 (a.toInt - b.toInt)) (some (decide (a.toNat < b.toNat)))
        (some (overflows (a.toInt - b.toInt)))) ∧
    (∃ r t, (∀ k < 32, r.getLsbD k = (a.getLsbD k && b.getLsbD k)) ∧ exec (.tst dr f) s = .next t ∧
      FlagsSet s t r none none)

/-- LDIHI and LDILO replace one half of DR by the low half of operand B and keep the other (decision D13 of the spec); no
flags. -/
def Obligations.LoadHalves : Prop :=
  ∀ (dr : RegNum) (f : Form) (s : State), condHolds s.cur.flags (formCond f) = true →
    let a := s.readReg dr
    let b := s.operandB f
    exec (.ldihi dr f) s = .next (s.writeReg dr (BitVec.ofNat 32 (b.toNat % 2 ^ 16 * 2 ^ 16 + a.toNat % 2 ^ 16))) ∧
    exec (.ldilo dr f) s = .next (s.writeReg dr (BitVec.ofNat 32 (a.toNat / 2 ^ 16 * 2 ^ 16 + b.toNat % 2 ^ 16)))

/-- LDI loads its sign-extended immediate: always in a standard word, under VCND in a half, whatever the blank bit
(decision D15 of the spec). -/
def Obligations.LoadImmediate : Prop :=
  ∀ (dr : RegNum) (s : State),
    (∀ imm : BitVec 23, exec (.ldi dr (.std imm)) s = .next (s.writeReg dr (BitVec.ofInt 32 imm.toInt))) ∧
    (∀ (blank : Bool) (v : BitVec 3) (imm : BitVec 5), condHolds s.cur.flags (condFirst v) = true →
      exec (.ldi dr (.c1 blank v imm)) s = .next (s.writeReg dr (BitVec.ofInt 32 imm.toInt))) ∧
    (∀ (blank : Bool) (v : BitVec 3) (imm : BitVec 5), condHolds s.cur.flags (condSecond v) = true →
      exec (.ldi dr (.c2 blank v imm)) s = .next (s.writeReg dr (BitVec.ofInt 32 imm.toInt)))

/-- MOV in every form: register plus offset, no flags. In supervisor mode the A and B bits name the user set; how the user
PC and CC read and write there are decisions D37, D5 and D7 of the spec; that a compact half has neither bits nor offset
is D16. -/
def Obligations.MoveBetweenRegisters : Prop :=
  ∀ (dr br : RegNum) (s : State),
    (∀ (cnd : Cond) (a b : Bool) (imm : BitVec 13), condHolds s.cur.flags cnd = true →
      (s.gie = true → exec (.mov dr (.std cnd a br b imm)) s =
        .next (s.writeReg dr (BitVec.ofInt 32 ((s.readReg br).toInt + imm.toInt)))) ∧
      (s.gie = false →
        let v := BitVec.ofInt 32 ((if b then s.readUser br else s.readReg br).toInt + imm.toInt)
        exec (.mov dr (.std cnd a br b imm)) s = .next (if a then s.writeUser dr v else s.writeReg dr v))) ∧
    (∀ v : BitVec 3, condHolds s.cur.flags (condFirst v) = true →
      exec (.mov dr (.c1 v br)) s = .next (s.writeReg dr (s.readReg br))) ∧
    (∀ v : BitVec 3, condHolds s.cur.flags (condSecond v) = true →
      exec (.mov dr (.c2 v br)) s = .next (s.writeReg dr (s.readReg br)))

/-- LOD from an address that answers: one read at the address operand B, its word written to DR, no flags. The word is
memory's, or any word for a peripheral. -/
def Obligations.LoadReadsOneWord : Prop :=
  ∀ (dr : RegNum) (f : Form) (s : State), condHolds s.cur.flags (formCond f) = true →
    s.answers .load (s.operandB f) = true →
    let ea := s.operandB f
    let t := { s with busLog := .load ea (s.lockCount != 0) :: s.busLog }
    (s.reply .load ea = .memory → exec (.lod dr f) s = .next (t.writeReg dr (s.peek ea))) ∧
    (s.reply .load ea = .peripheral → ∃ w, exec (.lod dr f) s = .next ((t.countDraws 1).writeReg dr w))

/-- STO to an address that answers: one write of DR at the address operand B. In plain memory exactly that word changes;
no register, flag or mode bit does. That a store to a peripheral leaves memory as it is is the model's choice, log entry
11: the spec leaves that write's effect to the environment. -/
def Obligations.StoreWritesOneWord : Prop :=
  ∀ (dr : RegNum) (f : Form) (s : State), s.mem.wf → condHolds s.cur.flags (formCond f) = true →
    s.answers .store (s.operandB f) = true →
    s.reply .store (s.operandB f) = .memory ∨ s.reply .store (s.operandB f) = .peripheral →
    ∃ t, exec (.sto dr f) s = .next t ∧
      (∀ a, s.operandB f = a → s.reply .store a = .memory → t.peek a = s.readReg dr ∧ ∀ b ≠ a, t.peek b = s.peek b) ∧
      (s.reply .store (s.operandB f) = .peripheral → ∀ b, t.peek b = s.peek b) ∧
      t.busLog = .store (s.operandB f) (s.readReg dr) (s.lockCount != 0) :: s.busLog ∧ t.mem.wf ∧
      { t with mem := s.mem, busLog := s.busLog, stale := s.stale } = s

/-- The law of rule R244 item 1: a store and then a load of the same plain-memory word brings the stored value back. -/
def Obligations.LoadReadsBackOwnStore : Prop :=
  ∀ (rx ry rb : RegNum) (s t : State), s.mem.wf → ry.toNat < 14 →
    s.reply .store (s.readReg rb) = .memory → s.reply .load (s.readReg rb) = .memory →
    s.answers .store (s.readReg rb) = true → s.answers .load (s.readReg rb) = true →
    exec (.sto rx (.stdReg .always rb 0#14)) s = .next t →
    ∃ u, exec (.lod ry (.stdReg .always rb 0#14)) t = .next u ∧ u.readReg ry = s.readReg rx

/-- Rule R260: DIVU, the floor of the quotient of two unsigned values (decision D21 of the spec), or DivideByZero. -/
def Obligations.UnsignedDivide : Prop :=
  ∀ (dr : RegNum) (f : Form) (s : State), condHolds s.cur.flags (formCond f) = true →
    (s.operandB f ≠ 0#32 → ∃ t, exec (.divu dr f) s = .next t ∧
      ResultWritten s t dr (formCond f) (BitVec.ofNat 32 ((s.readReg dr).toNat / (s.operandB f).toNat)) none none) ∧
    (s.operandB f = 0#32 → exec (.divu dr f) s = .next (s.raise .divideByZero))

/-- DIVS by a divisor other than 0: rounded toward zero, wrapping for -2^31 / -1 (decision D21 of the spec). -/
def Obligations.SignedDivide : Prop :=
  ∀ (dr : RegNum) (f : Form) (s : State), condHolds s.cur.flags (formCond f) = true → s.operandB f ≠ 0#32 →
    ∃ t, exec (.divs dr f) s = .next t ∧
      ResultWritten s t dr (formCond f) (BitVec.ofInt 32 (Int.tdiv (s.readReg dr).toInt (s.operandB f).toInt)) none none

/-- Rule R354: a divide by 0 writes neither DR nor the flags (decision D21 of the spec); in user mode it sets DIVE and enters
supervisor mode, with an unconstrained saved PC (decision D22), in supervisor mode it sets the supervisor's DIVE and halts
(decision D24). -/
def Obligations.DivideByZeroIsTaken : Prop :=
  ∀ (i : Instr) (dr : RegNum) (f : Form) (s : State), i = .divu dr f ∨ i = .divs dr f →
    condHolds s.cur.flags (formCond f) = true → s.operandB f = 0#32 →
    ∃ t, exec i s = .next t ∧
      (s.gie = true → EnteredSupervisor s t ∧ t.trap = s.trap ∧ t.usr = { s.usr with dive := true, pc := t.usr.pc }) ∧
      (s.gie = false → t.halted = some (.exception .divideByZero) ∧ t.usr = s.usr ∧ t.gie = false ∧ t.mem = s.mem ∧
        t.sup = { s.sup with dive := true, pc := t.sup.pc })

/-- Rule R280: NOOP does nothing, in a standard word and in a half; the words that are NOOP, whatever their bits 27 and 21:0
(decision D18 of the spec); and the PC moves past a word as it begins. -/
def Obligations.NoopDoesNothing : Prop :=
  (∀ (f : SpecialForm) (s : State), exec (.noop f) s = .next s) ∧
  (∀ w : Word, w &&& 0xF7C00000#32 = 0x76000000#32 → ∃ l x, decodeWord w = .single (.noop (.std l x))) ∧
  (∀ s : State, s.beginWord.cur.pc = s.cur.pc + 1#32)

/-- BREAK in a standard word: the PC stays its own address; it halts with BREAKEN set or in supervisor mode (decision D24
of the spec), else it enters supervisor mode with no cause bit. -/
def Obligations.BreakStopsAtItself : Prop :=
  ∀ (l : Bool) (x : BitVec 22) (s : State), ∃ t, exec (.brk (.std l x)) s = .next t ∧
    (s.breakEn = true ∨ s.gie = false → t.halted = some .brk ∧ t.gie = s.gie ∧ t.mem = s.mem ∧
      t.cur = { s.cur with pc := s.wordAddr } ∧ (s.gie = true → t.sup = s.sup) ∧ (s.gie = false → t.usr = s.usr)) ∧
    (s.breakEn = false → s.gie = true → EnteredSupervisor s t ∧ t.trap = s.trap ∧
      t.usr = { s.usr with pc := s.wordAddr })

/-- Every encoding of rule R113's list (decisions D19 and D20 of the spec: the reserved opcodes, the six floating-point
instructions, opcodes 0x1b to 0x1d with DR 14 or 15) takes IllegalInstruction, whatever its condition: user mode enters
supervisor mode with ILL set and the PC at the word, supervisor mode sets its own ILL and halts. -/
def Obligations.IllegalEncodingsAreTaken : Prop :=
  ∀ (i : Instr) (s : State),
    ((∃ dr f, i = .fpadd dr f ∨ i = .fpsub dr f ∨ i = .fpmpy dr f ∨ i = .fpdiv dr f ∨ i = .fpcvt dr f ∨ i = .fpint dr f) ∨
     (∃ f, i = .illegal1B f ∨ i = .illegal1C f ∨ i = .illegal1D f) ∨
     (∃ dr f, i = .reserved1E dr f ∨ i = .reserved1F dr f)) →
    ∃ t, exec i s = .next t ∧
      (s.gie = true → EnteredSupervisor s t ∧ t.trap = s.trap ∧ t.usr = { s.usr with ill := true, pc := s.wordAddr }) ∧
      (s.gie = false → t.halted = some (.exception .illegalInstruction) ∧ t.gie = false ∧ t.usr = s.usr ∧ t.mem = s.mem ∧
        t.sup = { s.sup with ill := true, pc := s.wordAddr })

/-- The undefined encodings of rule R115 items 1 and 2 are refused by name, and a step on a compact word with such a half,
and no illegal one, is refused as a whole before its first half runs (log entry 22), by the name of its first such half. -/
def Obligations.UndefinedEncodingsAreRefused : Prop :=
  (∀ dr f s, exec (.undefinedMovImm dr f) s = .refused .compactMovImmediate) ∧
  (∀ l v x s, exec (.brk (.c1 l v x)) s = .refused .compactBreak ∧ exec (.brk (.c2 l v x)) s = .refused .compactBreak) ∧
  (∀ l v x s, exec (.lock (.c1 l v x)) s = .refused .compactLock ∧ exec (.lock (.c2 l v x)) s = .refused .compactLock) ∧
  (∀ (s u : State) (w : Word) (i j : Instr) (r : Refusal), s.input.host = none → Running (arrived s) s.input →
    (arrived s).fetchWord (arrived s).cur.pc = .word w u → decodeWord w = .pair i j →
    (CodeWord.pair i j).illegal = false → u.lockCount = 0 →
    refusalOf i = some r ∨ (refusalOf i = none ∧ refusalOf j = some r) → step s = .refused r)

/-! ### Frames -/

/-- Only STO changes memory: every other instruction that answers next leaves every address as it was. -/
def Obligations.OnlyStoresChangeMemory : Prop :=
  ∀ (i : Instr) (s t : State), (∀ dr f, i ≠ .sto dr f) → exec i s = .next t → ∀ a, t.peek a = s.peek a

/-- Registers 0 to 13 other than the destination are unchanged, in both sets: the current set's destination is DR; of the
set not in use only a supervisor-mode MOV with its A bit set writes one. -/
def Obligations.OtherRegistersAreUnchanged : Prop :=
  ∀ (i : Instr) (s t : State) (j : RegNum), j.toNat < 14 → exec i s = .next t →
    (s.gie = true → t.sup.get j = s.sup.get j ∧ (destination i ≠ some j → t.usr.get j = s.usr.get j)) ∧
    (s.gie = false → (destination i ≠ some j → t.sup.get j = s.sup.get j) ∧
      (userDestination i ≠ some j → t.usr.get j = s.usr.get j))

/-- The flag-write rule R153 as a frame: an instruction that is not marked to set the flags in its form, and does not name
CC as its destination, leaves the flags of both sets unchanged. -/
def Obligations.FlagsChangeOnlyWhereNamed : Prop :=
  ∀ (i : Instr) (s t : State), exec i s = .next t → destination i ≠ some ccReg →
    (s.gie = true → t.sup.flags = s.sup.flags) ∧ (s.gie = false → t.usr.flags = s.usr.flags) ∧
    (writesFlags i = false → t.sup.flags = s.sup.flags ∧ t.usr.flags = s.usr.flags)

/-- An instruction that only computes, and does not name CC as its destination, always completes and changes no mode,
exception, halt, lock or software bit of either set. -/
def Obligations.PlainInstructionsKeepTheMode : Prop :=
  ∀ (i : Instr) (s : State), plain i = true → destination i ≠ some ccReg →
    ∃ t, exec i s = .next t ∧ t.gie = s.gie ∧ t.sleep = s.sleep ∧ t.stepBit = s.stepBit ∧ t.breakEn = s.breakEn ∧
      t.trap = s.trap ∧ t.halted = s.halted ∧ t.lockCount = s.lockCount ∧ t.busDeadlocked = s.busDeadlocked ∧
      t.busLog = s.busLog ∧ t.mem = s.mem ∧
      t.sup.ill = s.sup.ill ∧ t.sup.buserr = s.sup.buserr ∧ t.sup.dive = s.sup.dive ∧ t.sup.fpe = s.sup.fpe ∧
      t.sup.hi = s.sup.hi ∧
      t.usr.ill = s.usr.ill ∧ t.usr.buserr = s.usr.buserr ∧ t.usr.dive = s.usr.dive ∧ t.usr.fpe = s.usr.fpe ∧
      t.usr.hi = s.usr.hi

/-! ### Privilege and exceptions -/

/-- Rule R23: a user-mode step neither reads nor writes the supervisor set; in supervisor mode no instruction but MOV
reads or writes a register of the user set (registers 0 to 13, PC, flags and CC bits 31:13; the user's exception bits are
cleared by a return to user mode, R363); and a supervisor-mode MOV reaches it as source and as destination. -/
def Obligations.OnlySupervisorMoveCrossesSets : Prop :=
  (∀ (s : State) (r : RegSet), s.gie = true → s.input.host = none →
    step { s with sup := r } = mapNext (fun t => { t with sup := r }) (step s)) ∧
  (∀ (i : Instr) (s : State) (r : RegSet), s.gie = false → (∀ dr f, i ≠ .mov dr f) →
    exec i (withUserRegisters r s) = mapNext (withUserRegisters r) (exec i s)) ∧
  (∀ (s : State) (i j : RegNum), s.gie = false → i.toNat < 14 → j.toNat < 14 →
    (∃ t, exec (.mov i (.std .always true j false 0#13)) s = .next t ∧ t.usr.get i = s.sup.get j) ∧
    (∃ t, exec (.mov i (.std .always false j true 0#13)) s = .next t ∧ t.sup.get i = s.usr.get j))

/-- What user mode cannot do (rules R33 and R34, "can be set from supervisor mode only"): no user-mode instruction changes
BREAKEN, and STEP changes only by being cleared on the way to supervisor mode. -/
def Obligations.UserModeCannotSetStepOrBreakEnable : Prop :=
  ∀ (i : Instr) (s t : State), s.gie = true → exec i s = .next t →
    t.breakEn = s.breakEn ∧ (t.stepBit = s.stepBit ∨ (t.gie = false ∧ t.stepBit = false))

/-- Rule R36: TRAP is set by a user-mode write to CC that clears GIE, and by no other instruction or step. That the debugger,
whose write of CC is set aside here, sets it by nothing else is the model's choice, log entry 7. -/
def Obligations.TrapBitSetOnlyByUserTrap : Prop :=
  (∀ (s : State) (v : Word), s.gie = true → v[5] = false →
    (s.writeReg ccReg v).trap = true ∧ (s.writeReg ccReg v).gie = false) ∧
  (∀ (i : Instr) (s t : State), exec i s = .next t → s.trap = false → t.trap = true →
    s.gie = true ∧ t.gie = false ∧ destination i = some ccReg) ∧
  (∀ s t : State, NoDebugCC s → step s = .next t → s.trap = false → t.trap = true → s.gie = true ∧ t.gie = false)

/-- Entering user mode (rule R363, "The only way from supervisor to user mode"): an instruction that leaves supervisor
mode names CC as its destination and leaves `spc` at the next word, with TRAP and the user exception bits clear. -/
def Obligations.OnlyCcWriteEntersUserMode : Prop :=
  ∀ (i : Instr) (s t : State), exec i s = .next t → s.gie = false → t.gie = true →
    destination i = some ccReg ∧ t.sup.pc = s.wordAddr + 1#32 ∧ t.trap = false ∧ t.usr.ill = false ∧
    t.usr.buserr = false ∧ t.usr.dive = false ∧ t.usr.fpe = false ∧ t.usr.gen = s.usr.gen ∧ t.usr.pc = s.usr.pc

/-- Rule R352: an illegal encoding, or a fetch the bus refuses, raises IllegalInstruction at the word's own address; ILL
is cleared by a return to user mode, the supervisor's by the debugger or a reset. Which words are illegal and what PC is saved
are decisions D19, D20 and D22 of the spec. The model's own: a refused fetch inside a LOCK span is taken and ends it (log
entry 13), and what a debugger's write of CC clears (log entry 7). -/
def Obligations.IllegalInstructionIsTaken : Prop :=
  (∀ (ws : List (Word × Word)) (d : CodeWord) (s : State), d.illegal = true → ∃ t, execWord ws d s = .next t ∧
    (s.gie = true → EnteredSupervisor s t ∧ t.usr = { s.usr with ill := true, pc := s.wordAddr }) ∧
    (s.gie = false → t.halted = some (.exception .illegalInstruction) ∧ t.usr = s.usr ∧ t.mem = s.mem ∧
      t.sup = { s.sup with ill := true, pc := s.wordAddr })) ∧
  (∀ (s : State) (x : Input), Running s x → s.reply .fetch s.cur.pc = .refused → ∃ t, s.stepWith x = .next t ∧
    (s.gie = true → EnteredSupervisor s t ∧ t.usr = { s.usr with ill := true }) ∧
    (s.gie = false → t.halted = some (.exception .illegalInstruction) ∧ t.usr = s.usr ∧ t.mem = s.mem ∧
      t.sup = { s.sup with ill := true })) ∧
  (∀ s : State, s.returnToUser.usr.ill = false) ∧ (∀ s : State, s.applyReset.sup.ill = false) ∧
  (∀ (s : State) (v : Word), v[8] = false → (s.debugWriteReg false ccReg v).sup.ill = false)

/-- Rule R353: a LOD or STO the bus refuses sets BUSERR and enters supervisor mode, or sets the supervisor's BUSERR and
halts; BUSERR is cleared as rule R353 says. That no register 0 to 13 and no memory is written (DR kept by a failed load, the
word kept under a refused store: rules R240 and R241) is decision D30 of the spec, that a LOCK span ends rules R282 and R361
(decision D27), the unconstrained saved PC decision D22, and what a debugger's write of CC clears the model's choice, log
entry 7. -/
def Obligations.BusErrorIsTaken : Prop :=
  (∀ (i : Instr) (dr : RegNum) (f : Form) (s : State),
    (i = .lod dr f ∧ s.answers .load (s.operandB f) = true ∧ s.reply .load (s.operandB f) = .refused) ∨
    (i = .sto dr f ∧ s.answers .store (s.operandB f) = true ∧ s.reply .store (s.operandB f) = .refused) →
    condHolds s.cur.flags (formCond f) = true →
    ∃ t, exec i s = .next t ∧ t.lockCount = 0 ∧
      (s.gie = true → EnteredSupervisor s t ∧ t.trap = s.trap ∧ t.usr = { s.usr with buserr := true, pc := t.usr.pc }) ∧
      (s.gie = false → t.halted = some (.exception .busError) ∧ t.gie = false ∧ t.usr = s.usr ∧ t.mem = s.mem ∧
        t.sup = { s.sup with buserr := true, pc := t.sup.pc })) ∧
  (∀ s : State, s.returnToUser.usr.buserr = false) ∧ (∀ s : State, s.applyReset.sup.buserr = false) ∧
  (∀ (s : State) (v : Word), v[10] = false → (s.debugWriteReg false ccReg v).sup.buserr = false)

/-- A supervisor exception bit, once set, stays set through every step in which neither the debugger nor a reset acts
(rules R35 and R37: "unset by a debugger, or the CPU is reset"; of DIVE it is decision D24 of the spec, and that no write of
CC clears these bits decision D6). -/
def Obligations.SupervisorExceptionBitsStay : Prop :=
  ∀ s t : State, step s = .next t → s.input.host = none →
    (s.sup.ill = true → t.sup.ill = true) ∧ (s.sup.buserr = true → t.sup.buserr = true) ∧
    (s.sup.dive = true → t.sup.dive = true)

/-- Rule R355: FPE is never set, in either set, and no write of CC sets it. That the debugger can set it by a write of CC
alone, which is set aside here, is the model's choice, log entry 7. -/
def Obligations.FloatingPointBitStaysClear : Prop :=
  (∀ s t : State, NoDebugCC s → step s = .next t → s.sup.fpe = false → s.usr.fpe = false →
    t.sup.fpe = false ∧ t.usr.fpe = false) ∧
  (∀ (s : State) (v : Word), (s.writeReg ccReg v).sup.fpe = s.sup.fpe ∧
    ((s.writeReg ccReg v).usr.fpe = s.usr.fpe ∨ (s.writeReg ccReg v).usr.fpe = false)) ∧
  State.reset.sup.fpe = false ∧ State.reset.usr.fpe = false ∧
  (∀ s : State, s.cur.fpe = false → (s.readReg ccReg)[12] = false)

/-! ### The step -/

/-- A step runs the decoded instruction: the word fetched at the PC decodes to a standard instruction, and step is exec of
it, once other masters' writes after the fetch have landed, in the state whose word address is latched and whose PC is past
the word, followed by the end of the word. That writes land at that place, and that those meant for between two halves wait,
is the model's choice, log entry 6. -/
def Obligations.StepRunsTheDecodedInstruction : Prop :=
  ∀ (s u : State) (w : Word) (i : Instr), s.input.host = none → Running (arrived s) s.input →
    (arrived s).fetchWord (arrived s).cur.pc = .word w u → decodeWord w = .single i →
    u.lockCount = 0 ∨ (CodeWord.single i).lockable = true →
    let b := (u.admitWrites s.input.afterFetch).beginWord
    step s = Outcome.andThen (exec i b)
      (fun t => .next ((t.queueWrites s.input.between).endWord u.gie (CodeWord.single i).isLock)) ∧
    b.wordAddr = u.cur.pc ∧ b.cur = { u.cur with pc := u.cur.pc + 1#32 } ∧ b.control = false

/-- A compact word runs its first half and then, on what that left and with other masters' writes landed between their
accesses (rule R376), its second, unless the first caused a control event; the order and the cancelling are decision D17 of
the spec, the places at which the writes land, or wait, the model's choice, log entry 6. -/
def Obligations.StepRunsBothHalvesInOrder : Prop :=
  ∀ (s u : State) (w : Word) (i j : Instr), s.input.host = none → Running (arrived s) s.input →
    (arrived s).fetchWord (arrived s).cur.pc = .word w u → decodeWord w = .pair i j →
    (CodeWord.pair i j).illegal = false → i.undefinedEncoding = false → j.undefinedEncoding = false → u.lockCount = 0 →
    step s = Outcome.andThen (exec i (u.admitWrites s.input.afterFetch).beginWord) (fun t =>
      Outcome.andThen (if t.control then .next (t.queueWrites s.input.between) else exec j (t.admitWrites s.input.between))
        (fun t' => .next (t'.endWord u.gie false)))

/-- The end of a word: the LOCK span counts down, and a word that ran in user mode with STEP set returns to supervisor
mode at the next user word (decision D35 of the spec); that this clears `lock_count`, as rule R361 says of every entry, is
the model's reading, log entry 13. That a word stuck on a deadlocked bus has no end is the model's reading too, log entry 19. -/
def Obligations.EndOfWordCountsAndStepReturns : Prop :=
  (∀ (s : State) (wasUser isLock : Bool), s.busDeadlocked = true → s.endWord wasUser isLock = s) ∧
  ∀ (s : State) (wasUser isLock : Bool), s.busDeadlocked = false →
    let n := if isLock then s.lockCount else s.lockCount - 1
    let back := wasUser && s.gie && s.stepBit && s.halted.isNone
    (back = true → EnteredSupervisor s (s.endWord wasUser isLock) ∧ (s.endWord wasUser isLock).usr = s.usr) ∧
    (back = false → s.endWord wasUser isLock = { s with lockCount := n })

/-- A user-mode word that runs with STEP set leaves user mode with STEP clear, or halts, or is stuck on the bus (rule R33,
"accomplish one instruction in user mode before returning to supervisor mode"). -/
def Obligations.StepBitAllowsOneUserWord : Prop :=
  ∀ s t : State, s.input.host = none → Running (arrived s) s.input → s.gie = true → s.stepBit = true →
    step s = .next t → (t.gie = false ∧ t.stepBit = false) ∨ t.halted ≠ none ∨ t.busDeadlocked = true

/-- An interrupt in user mode outside a LOCK span is taken before the next word: the mode, SLEEP and STEP change, and both
register sets, TRAP, BREAKEN and memory do not; in supervisor mode and inside a span the line has no effect (decision D26 of the spec). -/
def Obligations.InterruptIsTakenBetweenWords : Prop :=
  (∀ (s : State) (x : Input), s.halted = none → s.busDeadlocked = false → s.gie = true → s.lockCount = 0 → x.irq = true →
    ∃ t, s.stepWith x = .next t ∧ EnteredSupervisor s t ∧ t.usr = s.usr ∧ t.trap = s.trap) ∧
  (∀ (s : State) (x : Input), s.gie = false ∨ s.lockCount ≠ 0 → s.stepWith x = s.stepWith { x with irq := false })

/-- A sleeping user program waits for an interrupt and a halted CPU for the debugger or a reset: the step changes nothing
but what comes from outside. That a halt ends only so is decision D33 of the spec; that writes of other masters wait meanwhile
is the model's choice, log entry 6. -/
def Obligations.SleepAndHaltExecuteNothing : Prop :=
  (∀ (s : State) (x : Input), s.gie = true → s.sleep = true → x.irq = false → s.stepWith x = .next (s.queueWrites x.later)) ∧
  (∀ (s : State) (x : Input), s.halted ≠ none → s.stepWith x = .next (s.queueWrites x.later)) ∧
  (∀ s : State, s.halted ≠ none → s.input.host = none → step s = .next (idled s))

/-- LOCK opens a span of two words and does nothing else (decision D27 of the spec). Inside it a word that is not a standard
LOD or STO with DR 0 to 13 is refused by name, and the writes of other bus masters, the debugger among them, wait; at the
first step outside it all that wait land, oldest first. That they wait from the end of LOCK on, so also before the first
locked access, is the model's reading, log entry 12; at which addresses they land is its choice, log entry 25. -/
def Obligations.LockOpensAnExclusiveSpan : Prop :=
  (∀ (l : Bool) (x : BitVec 22) (s : State), exec (.lock (.std l x)) s = .next { s with lockCount := 2 }) ∧
  (∀ (s u : State) (w : Word) (x : Input), Running s x → s.fetchWord s.cur.pc = .word w u → s.lockCount ≠ 0 →
    (decodeWord w).lockable = false → s.stepWith x = .refused .lockSpan) ∧
  (∀ s : State, s.lockCount ≠ 0 → (arrived s).mem = s.mem ∧ (arrived s).heldWrites = s.heldWrites ++ s.input.writes) ∧
  (∀ (s : State) (ws : List (Word × Word)), s.lockCount ≠ 0 →
    (s.admitWrites ws).mem = s.mem ∧ (s.admitWrites ws).heldWrites = s.heldWrites ++ ws) ∧
  (∀ (s : State) (a v : Word), s.lockCount ≠ 0 → s.halted ≠ none → s.input.host = some (.writeMem a v) →
    ∃ t, step s = .next t ∧ t.mem = s.mem ∧ (a, v) ∈ t.heldWrites) ∧
  (∀ s : State, s.mem.wf → s.lockCount = 0 →
    (∀ w ∈ s.heldWrites ++ s.input.writes, s.reply .store w.1 = .memory) →
    (arrived s).heldWrites = [] ∧
    ∀ a, (arrived s).peek a = (lastWrite (s.heldWrites ++ s.input.writes) a).getD (s.peek a))

/-- A fetch returns the word in memory, or, at an address overwritten since reset, any word it held since (decision D29 of
the spec). D29 speaks of the program's stores; that a word overwritten by any agent joins those a fetch may return is the
model's choice, log entry 10. -/
def Obligations.FetchReturnsOldOrNewWord : Prop :=
  (∀ (s : State) (a : Word), s.reply .fetch a = .memory → s.staleAt a = [] → s.fetchWord a = .word (s.peek a) s) ∧
  (∀ (s u : State) (a w : Word), s.reply .fetch a = .memory → s.fetchWord a = .word w u →
    w = s.peek a ∨ w ∈ s.staleAt a) ∧
  (∀ (s : State) (a v w : Word), w ∈ s.staleAt a ∨ (w = s.peek a ∧ w ≠ v) → w ∈ (s.poke a v).staleAt a)

/-- An access the bus never answers leaves the CPU stuck, as rule R85 says: no later step executes anything or takes an
interrupt, and a reset, and only a reset, releases it. That the model follows R85 where rule R412 with D30 calls this no state
of the CPU, by a state of the bus, and that the debugger cannot halt a stuck CPU, is log entry 19; where other masters' writes
land and wait meanwhile is log entry 6. -/
def Obligations.OnlyResetReleasesDeadlock : Prop :=
  (∀ (i : Instr) (dr : RegNum) (f : Form) (s : State),
    (i = .lod dr f ∧ s.answers .load (s.operandB f) = false) ∨ (i = .sto dr f ∧ s.answers .store (s.operandB f) = false) →
    condHolds s.cur.flags (formCond f) = true →
    ∃ t, exec i s = .next t ∧ t.busDeadlocked = true ∧ t.sup = s.sup ∧ t.usr = s.usr ∧ t.mem = s.mem ∧
      t.lockCount = s.lockCount) ∧
  (∀ (s : State) (x : Input), s.halted = none → s.busDeadlocked = false → s.sleep = false →
    ¬ (s.gie = true ∧ x.irq = true ∧ s.lockCount = 0) → s.answers .fetch s.cur.pc = false →
    s.stepWith x = .next (({ s with busDeadlocked := true, control := true } : State).queueWrites x.later)) ∧
  (∀ s : State, s.busDeadlocked = true → s.halted = none → s.input.host ≠ some .reset → step s = .next (idled s)) ∧
  (∀ s : State, s.input.host = some .reset → step s = .next ((arrived s).applyReset.queueWrites s.input.later) ∧
    (arrived s).applyReset.busDeadlocked = false ∧ (arrived s).applyReset.halted = none)

/-- The debugger (rules R371 and R372): it halts a running CPU; on a halted one it releases it, steps it once and holds it
again, and writes memory and any register of either set. A release keeps both sets, GIE and SLEEP. That its write of CC reaches every bit, and GIE only through the CC
of the set in use, is the model's choice, log entry 7; that a release keeps `lock_count`, log entry 24; at which addresses its
memory write lands, log entry 25. -/
def Obligations.DebuggerActsOnHaltedCpu : Prop :=
  (∀ s : State, s.halted = none → s.busDeadlocked = false → s.input.host = some .halt →
    ∃ t, step s = .next t ∧ t.halted = some .debugger ∧ t.sup = s.sup ∧ t.usr = s.usr ∧ t.gie = s.gie) ∧
  ∀ s : State, s.halted ≠ none → s.busDeadlocked = false →
    (s.input.host = some .release → ∃ t, step s = .next t ∧ t.halted = none ∧ t.sup = s.sup ∧ t.usr = s.usr ∧
      t.gie = s.gie ∧ t.sleep = s.sleep ∧ t.lockCount = s.lockCount) ∧
    (s.input.host = some .stepOne → step s =
      Outcome.andThen (({ arrived s with halted := none } : State).stepWith s.input) (fun u =>
        .next (if u.halted = none ∧ u.busDeadlocked = false then { u with halted := some .debugger } else u))) ∧
    (∀ a v, s.input.host = some (.writeMem a v) → s.mem.wf → s.lockCount = 0 → s.heldWrites = [] → s.input.writes = [] →
      s.reply .store a = .memory → ∃ t, step s = .next t ∧ t.peek a = v ∧ (∀ b ≠ a, t.peek b = s.peek b) ∧
        t.sup = s.sup ∧ t.usr = s.usr ∧ t.halted = s.halted) ∧
    (∀ i v, i.toNat < 14 → s.input.host = some (.writeReg true i v) →
      ∃ t, step s = .next t ∧ t.usr.get i = v ∧ t.sup = s.sup ∧ t.halted = s.halted) ∧
    (∀ i v, i.toNat < 14 → s.input.host = some (.writeReg false i v) →
      ∃ t, step s = .next t ∧ t.sup.get i = v ∧ t.usr = s.usr ∧ t.halted = s.halted) ∧
    (∀ u v, s.input.host = some (.writeReg u pcReg v) →
      ∃ t, step s = .next t ∧ (if u then t.usr.pc else t.sup.pc) = v ∧ t.halted = s.halted) ∧
    (∀ u v, s.input.host = some (.writeReg u ccReg v) →
      ∃ t, step s = .next t ∧ t.halted = s.halted ∧ t.gie = (if u = s.gie then v[5] else s.gie) ∧
        ∀ k < 32, k ≠ 5 → (t.ccOf (if u then t.usr else t.sup) u).getLsbD k = v.getLsbD k)

/-! ### Reset and invariants -/

/-- What reset leaves, after power-on at any reset address and from any state: decision D3 of the spec, but for the
supervisor's ILL and BUSERR, which the source says a reset clears. Nothing is said of the registers the spec leaves
unspecified. -/
def Obligations.ResetLeavesTheStatedValues : Prop :=
  let stated := fun (addr : Word) (s : State) =>
    s.gie = false ∧ s.sup.pc = addr ∧ s.sleep = false ∧ s.stepBit = false ∧ s.breakEn = false ∧
    s.trap = false ∧ s.sup.ill = false ∧ s.sup.buserr = false ∧ s.sup.dive = false ∧ s.sup.fpe = false ∧
    s.usr.ill = false ∧ s.usr.buserr = false ∧ s.usr.dive = false ∧ s.usr.fpe = false ∧ s.halted = none ∧ s.lockCount = 0
  (∀ addr : Word, stated addr (State.resetAt addr)) ∧ State.reset = State.resetAt Config.resetAddress ∧
  ∀ s : State, stated s.resetAddress s.applyReset ∧ s.applyReset.mem = s.mem ∧ s.applyReset.resetAddress = s.resetAddress

/-- The invariant holds after reset, at every reset address. -/
def Obligations.ResetMeetsTheInvariant : Prop := State.reset.Inv ∧ ∀ addr : Word, (State.resetAt addr).Inv

/-- Every step from a state with the invariant leads to one with it: whatever comes from outside, memory in canonical form,
the LOCK span at most two words and no halted CPU on a deadlocked bus (log entry 19); and, where the debugger neither writes a
CC register nor releases a sleeping supervisor, whose effects are the model's choice (log entry 7), also FPE clear, no CPU
asleep in supervisor mode unless halted, and no stale cause bit in user mode. -/
def Obligations.StepKeepsTheInvariant : Prop :=
  ∀ s t : State, step s = .next t →
    (s.Sound → t.Sound) ∧
    (s.Inv → NoDebugCC s → (s.input.host = some .release → s.sleep = true → s.gie = true) → t.Inv)

/-- On a platform that answers every access the bus never deadlocks (the stuck state is log entry 19), and the platform's map
and reset address never change (that they are constant over a run is log entries 5 and 2). -/
def Obligations.AnsweringPlatformNeverSticks : Prop :=
  ∀ s t : State, s.AlwaysAnswered → step s = .next t →
    t.AlwaysAnswered ∧ t.regions = s.regions ∧ t.resetAddress = s.resetAddress
end

