-- ==== Sys2Proof/Laws/Decode.lean ====
section
/-! SUPPORT. The fields of an encoded word, and what the decoder reads from the fields of each form. -/

namespace Sys2Proof

/-! ### Fields of a standard word -/

section
variable (dr : RegNum) (op : BitVec 5) (low : BitVec 22)

theorem stdWord_dr : (stdWord dr op low).extractLsb' 27 4 = dr := by
  simp (disch := omega) only [stdWord, BitVec.extractLsb'_append_eq_of_le, BitVec.extractLsb'_append_eq_of_add_le]
  exact BitVec.extractLsb'_eq_self

theorem stdWord_op : (stdWord dr op low).extractLsb' 22 5 = op := by
  simp (disch := omega) only [stdWord, BitVec.extractLsb'_append_eq_of_le, BitVec.extractLsb'_append_eq_of_add_le]
  exact BitVec.extractLsb'_eq_self

theorem stdWord_low (k n : Nat) (h : k + n ≤ 22) : (stdWord dr op low).extractLsb' k n = low.extractLsb' k n := by
  simp (disch := omega) only [stdWord, BitVec.extractLsb'_append_eq_of_add_le]

theorem stdWord_drBit : (stdWord dr op low).extractLsb' 27 1 = dr.extractLsb' 0 1 := by
  simp (disch := omega) only [stdWord, BitVec.extractLsb'_append_eq_of_le, BitVec.extractLsb'_append_eq_of_add_le]

theorem stdWord_opBits : (stdWord dr op low).extractLsb' 22 1 = op.extractLsb' 0 1 := by
  simp (disch := omega) only [stdWord, BitVec.extractLsb'_append_eq_of_le, BitVec.extractLsb'_append_eq_of_add_le]

theorem stdWord_imm23 (imm : BitVec 23) :
    (stdWord dr (0b1011#4 ++ imm.extractLsb' 22 1) (imm.extractLsb' 0 22)).extractLsb' 0 23 = imm := by
  apply BitVec.eq_of_getLsbD_eq
  intro i hi
  simp only [stdWord, BitVec.getLsbD_extractLsb', BitVec.getLsbD_append, Nat.zero_add]
  by_cases h : i < 22
  · simp [h, hi]
  · obtain rfl : i = 22 := by omega
    simp

theorem stdWord_bit31 : (stdWord dr op low).extractLsb' 31 1 = 0#1 := by
  simp (disch := omega) only [stdWord, BitVec.extractLsb'_append_eq_of_le]
  exact BitVec.extractLsb'_eq_self

end

/-! ### Fields of a compact word -/

section
variable (dr1 : RegNum) (op1 : BitVec 5) (v : BitVec 3) (low1 : BitVec 5) (dr2 : RegNum) (op2 low2 : BitVec 5)

theorem compactWord_bit31 : (compactWord dr1 op1 v low1 dr2 op2 low2).extractLsb' 31 1 = 1#1 := by
  simp (disch := omega) only [compactWord, BitVec.extractLsb'_append_eq_of_le]
  exact BitVec.extractLsb'_eq_self

theorem compactWord_dr1 : (compactWord dr1 op1 v low1 dr2 op2 low2).extractLsb' 27 4 = dr1 := by
  simp (disch := omega) only [compactWord, BitVec.extractLsb'_append_eq_of_le, BitVec.extractLsb'_append_eq_of_add_le]
  exact BitVec.extractLsb'_eq_self

theorem compactWord_op1 : (compactWord dr1 op1 v low1 dr2 op2 low2).extractLsb' 22 5 = op1 := by
  simp (disch := omega) only [compactWord, BitVec.extractLsb'_append_eq_of_le, BitVec.extractLsb'_append_eq_of_add_le]
  exact BitVec.extractLsb'_eq_self

theorem compactWord_vcnd : (compactWord dr1 op1 v low1 dr2 op2 low2).extractLsb' 19 3 = v := by
  simp (disch := omega) only [compactWord, BitVec.extractLsb'_append_eq_of_le, BitVec.extractLsb'_append_eq_of_add_le]
  exact BitVec.extractLsb'_eq_self

theorem compactWord_low1 : (compactWord dr1 op1 v low1 dr2 op2 low2).extractLsb' 14 5 = low1 := by
  simp (disch := omega) only [compactWord, BitVec.extractLsb'_append_eq_of_le, BitVec.extractLsb'_append_eq_of_add_le]
  exact BitVec.extractLsb'_eq_self

theorem compactWord_low1_f4 : (compactWord dr1 op1 v low1 dr2 op2 low2).extractLsb' 14 4 = low1.extractLsb' 0 4 := by
  simp (disch := omega) only [compactWord, BitVec.extractLsb'_append_eq_of_le, BitVec.extractLsb'_append_eq_of_add_le]

theorem compactWord_sel1 : (compactWord dr1 op1 v low1 dr2 op2 low2).extractLsb' 18 1 = low1.extractLsb' 4 1 := by
  simp (disch := omega) only [compactWord, BitVec.extractLsb'_append_eq_of_le, BitVec.extractLsb'_append_eq_of_add_le]

theorem compactWord_blank1 : (compactWord dr1 op1 v low1 dr2 op2 low2).extractLsb' 22 1 = op1.extractLsb' 0 1 := by
  simp (disch := omega) only [compactWord, BitVec.extractLsb'_append_eq_of_le, BitVec.extractLsb'_append_eq_of_add_le]

theorem compactWord_drBit1 : (compactWord dr1 op1 v low1 dr2 op2 low2).extractLsb' 27 1 = dr1.extractLsb' 0 1 := by
  simp (disch := omega) only [compactWord, BitVec.extractLsb'_append_eq_of_le, BitVec.extractLsb'_append_eq_of_add_le]

theorem compactWord_dr2 : (compactWord dr1 op1 v low1 dr2 op2 low2).extractLsb' 10 4 = dr2 := by
  simp (disch := omega) only [compactWord, BitVec.extractLsb'_append_eq_of_le, BitVec.extractLsb'_append_eq_of_add_le]
  exact BitVec.extractLsb'_eq_self

theorem compactWord_op2 : (compactWord dr1 op1 v low1 dr2 op2 low2).extractLsb' 5 5 = op2 := by
  simp (disch := omega) only [compactWord, BitVec.extractLsb'_append_eq_of_le, BitVec.extractLsb'_append_eq_of_add_le]
  exact BitVec.extractLsb'_eq_self

theorem compactWord_low2 : (compactWord dr1 op1 v low1 dr2 op2 low2).extractLsb' 0 5 = low2 := by
  simp (disch := omega) only [compactWord, BitVec.extractLsb'_append_eq_of_add_le]
  exact BitVec.extractLsb'_eq_self

theorem compactWord_low2_f4 : (compactWord dr1 op1 v low1 dr2 op2 low2).extractLsb' 0 4 = low2.extractLsb' 0 4 := by
  simp (disch := omega) only [compactWord, BitVec.extractLsb'_append_eq_of_add_le]

theorem compactWord_sel2 : (compactWord dr1 op1 v low1 dr2 op2 low2).extractLsb' 4 1 = low2.extractLsb' 4 1 := by
  simp (disch := omega) only [compactWord, BitVec.extractLsb'_append_eq_of_add_le]

theorem compactWord_blank2 : (compactWord dr1 op1 v low1 dr2 op2 low2).extractLsb' 5 1 = op2.extractLsb' 0 1 := by
  simp (disch := omega) only [compactWord, BitVec.extractLsb'_append_eq_of_le, BitVec.extractLsb'_append_eq_of_add_le]

theorem compactWord_drBit2 : (compactWord dr1 op1 v low1 dr2 op2 low2).extractLsb' 10 1 = dr2.extractLsb' 0 1 := by
  simp (disch := omega) only [compactWord, BitVec.extractLsb'_append_eq_of_le, BitVec.extractLsb'_append_eq_of_add_le]

end

/-! ### The bits below the OpCode -/

theorem immLow_cnd (b : BitVec 3) (s : BitVec 1) (imm : BitVec 18) :
    (b ++ s ++ imm).extractLsb' 19 3 = b := by
  simp (disch := omega) only [BitVec.extractLsb'_append_eq_of_le]
  exact BitVec.extractLsb'_eq_self

theorem immLow_sel (b : BitVec 3) (s : BitVec 1) (imm : BitVec 18) :
    (b ++ s ++ imm).extractLsb' 18 1 = s := by
  simp (disch := omega) only [BitVec.extractLsb'_append_eq_of_le, BitVec.extractLsb'_append_eq_of_add_le]
  exact BitVec.extractLsb'_eq_self

theorem immLow_imm (b : BitVec 3) (s : BitVec 1) (imm : BitVec 18) :
    (b ++ s ++ imm).extractLsb' 0 18 = imm := by
  simp (disch := omega) only [BitVec.extractLsb'_append_eq_of_add_le]
  exact BitVec.extractLsb'_eq_self

theorem regLow_cnd (b : BitVec 3) (s : BitVec 1) (br : BitVec 4) (imm : BitVec 14) :
    (b ++ s ++ br ++ imm).extractLsb' 19 3 = b := by
  simp (disch := omega) only [BitVec.extractLsb'_append_eq_of_le]
  exact BitVec.extractLsb'_eq_self

theorem regLow_sel (b : BitVec 3) (s : BitVec 1) (br : BitVec 4) (imm : BitVec 14) :
    (b ++ s ++ br ++ imm).extractLsb' 18 1 = s := by
  simp (disch := omega) only [BitVec.extractLsb'_append_eq_of_le, BitVec.extractLsb'_append_eq_of_add_le]
  exact BitVec.extractLsb'_eq_self

theorem regLow_br (b : BitVec 3) (s : BitVec 1) (br : BitVec 4) (imm : BitVec 14) :
    (b ++ s ++ br ++ imm).extractLsb' 14 4 = br := by
  simp (disch := omega) only [BitVec.extractLsb'_append_eq_of_le, BitVec.extractLsb'_append_eq_of_add_le]
  exact BitVec.extractLsb'_eq_self

theorem regLow_imm (b : BitVec 3) (s : BitVec 1) (br : BitVec 4) (imm : BitVec 14) :
    (b ++ s ++ br ++ imm).extractLsb' 0 14 = imm := by
  simp (disch := omega) only [BitVec.extractLsb'_append_eq_of_add_le]
  exact BitVec.extractLsb'_eq_self

theorem movLow_cnd (b : BitVec 3) (x : BitVec 1) (br : BitVec 4) (y : BitVec 1) (imm : BitVec 13) :
    (b ++ x ++ br ++ y ++ imm).extractLsb' 19 3 = b := by
  simp (disch := omega) only [BitVec.extractLsb'_append_eq_of_le]
  exact BitVec.extractLsb'_eq_self

theorem movLow_a (b : BitVec 3) (x : BitVec 1) (br : BitVec 4) (y : BitVec 1) (imm : BitVec 13) :
    (b ++ x ++ br ++ y ++ imm).extractLsb' 18 1 = x := by
  simp (disch := omega) only [BitVec.extractLsb'_append_eq_of_le, BitVec.extractLsb'_append_eq_of_add_le]
  exact BitVec.extractLsb'_eq_self

theorem movLow_br (b : BitVec 3) (x : BitVec 1) (br : BitVec 4) (y : BitVec 1) (imm : BitVec 13) :
    (b ++ x ++ br ++ y ++ imm).extractLsb' 14 4 = br := by
  simp (disch := omega) only [BitVec.extractLsb'_append_eq_of_le, BitVec.extractLsb'_append_eq_of_add_le]
  exact BitVec.extractLsb'_eq_self

theorem movLow_b (b : BitVec 3) (x : BitVec 1) (br : BitVec 4) (y : BitVec 1) (imm : BitVec 13) :
    (b ++ x ++ br ++ y ++ imm).extractLsb' 13 1 = y := by
  simp (disch := omega) only [BitVec.extractLsb'_append_eq_of_le, BitVec.extractLsb'_append_eq_of_add_le]
  exact BitVec.extractLsb'_eq_self

theorem movLow_imm (b : BitVec 3) (x : BitVec 1) (br : BitVec 4) (y : BitVec 1) (imm : BitVec 13) :
    (b ++ x ++ br ++ y ++ imm).extractLsb' 0 13 = imm := by
  simp (disch := omega) only [BitVec.extractLsb'_append_eq_of_add_le]
  exact BitVec.extractLsb'_eq_self

theorem halfLow_sel (s : BitVec 1) (x : BitVec 4) :
    (s ++ x).extractLsb' 4 1 = s := by
  simp (disch := omega) only [BitVec.extractLsb'_append_eq_of_le]
  exact BitVec.extractLsb'_eq_self

theorem halfLow_f4 (s : BitVec 1) (x : BitVec 4) :
    (s ++ x).extractLsb' 0 4 = x := by
  simp (disch := omega) only [BitVec.extractLsb'_append_eq_of_add_le]
  exact BitVec.extractLsb'_eq_self

theorem opBit_ofBool (p : BitVec 4) (x : BitVec 1) : (p ++ x).extractLsb' 0 1 = x := by
  simp (disch := omega) only [BitVec.extractLsb'_append_eq_of_add_le]
  exact BitVec.extractLsb'_eq_self

theorem drBit_ofBool (p : BitVec 3) (x : BitVec 1) : (p ++ x).extractLsb' 0 1 = x := by
  simp (disch := omega) only [BitVec.extractLsb'_append_eq_of_add_le]
  exact BitVec.extractLsb'_eq_self

/-! ### Conditions and bits -/

@[simp] theorem Cond.ofBits_bits (cnd : Cond) : Cond.ofBits cnd.bits = cnd := by cases cnd <;> rfl

theorem Cond.bits_ofBits (b : BitVec 3) : (Cond.ofBits b).bits = b := by revert b; decide

theorem ofBool_beq_one (b : Bool) : (BitVec.ofBool b == 1#1) = b := by cases b <;> rfl

/-! ### What decoding reads back from each form -/

/-- Decoding the fields of an operand-B form finds the opcode's row with that form. -/
theorem decodeAt_form (dr : RegNum) (op : BitVec 5) (f : Form) :
    ∃ F : RowForms, F.two = f ∧ decodeAt f.place.1 (encodeFields (dr, op, f.low)) = opcodeRow op dr F := by
  cases f
  case stdImm cnd imm =>
    refine ⟨_, ?_, by
      simp only [decodeAt, Form.place, Form.low, encodeFields, decodeStd, stdWord_dr, stdWord_op]; rfl⟩
    simp (disch := omega) only [Word.flag, stdWord_low, immLow_cnd, immLow_sel, immLow_imm, Cond.ofBits_bits]
    rfl
  case stdReg cnd br imm =>
    refine ⟨_, ?_, by
      simp only [decodeAt, Form.place, Form.low, encodeFields, decodeStd, stdWord_dr, stdWord_op]; rfl⟩
    simp (disch := omega) only [Word.flag, stdWord_low, regLow_cnd, regLow_sel, regLow_br, regLow_imm, Cond.ofBits_bits]
    rfl
  case c1Imm v imm =>
    refine ⟨_, ?_, by
      simp only [decodeAt, Form.place, Form.low, encodeFields, decodeFirst, compactWord_dr1, compactWord_op1]; rfl⟩
    simp (disch := omega) only [Word.flag, compactWord_sel1, compactWord_vcnd, compactWord_low1_f4, halfLow_sel, halfLow_f4]
    rfl
  case c1Reg v br =>
    refine ⟨_, ?_, by
      simp only [decodeAt, Form.place, Form.low, encodeFields, decodeFirst, compactWord_dr1, compactWord_op1]; rfl⟩
    simp (disch := omega) only [Word.flag, compactWord_sel1, compactWord_vcnd, compactWord_low1_f4, halfLow_sel, halfLow_f4]
    rfl
  case c2Imm v imm =>
    refine ⟨_, ?_, by
      simp only [decodeAt, Form.place, Form.low, encodeFields, decodeSecond, compactWord_dr2, compactWord_op2]; rfl⟩
    simp (disch := omega) only [Word.flag, compactWord_sel2, compactWord_vcnd, compactWord_low2_f4, halfLow_sel, halfLow_f4]
    rfl
  case c2Reg v br =>
    refine ⟨_, ?_, by
      simp only [decodeAt, Form.place, Form.low, encodeFields, decodeSecond, compactWord_dr2, compactWord_op2]; rfl⟩
    simp (disch := omega) only [Word.flag, compactWord_sel2, compactWord_vcnd, compactWord_low2_f4, halfLow_sel, halfLow_f4]
    rfl

/-- Decoding the fields of a MOV finds its row with that form. -/
theorem decodeAt_movForm (dr : RegNum) (op : BitVec 5) (f : MovForm) :
    ∃ F : RowForms, F.mov = .mov dr f ∧ decodeAt f.place.1 (encodeFields (dr, op, f.low)) = opcodeRow op dr F := by
  cases f
  case std cnd a br b imm =>
    refine ⟨_, ?_, by
      simp only [decodeAt, MovForm.place, MovForm.low, encodeFields, decodeStd, stdWord_dr, stdWord_op]; rfl⟩
    simp (disch := omega) only [Word.flag, stdWord_low, movLow_cnd, movLow_a, movLow_br, movLow_b, movLow_imm, Cond.ofBits_bits, ofBool_beq_one]
  case c1 v br =>
    refine ⟨_, ?_, by
      simp only [decodeAt, MovForm.place, MovForm.low, encodeFields, decodeFirst, compactWord_dr1, compactWord_op1]; rfl⟩
    simp (disch := omega) only [Word.flag, compactWord_sel1, compactWord_vcnd, compactWord_low1_f4, halfLow_sel, halfLow_f4]
    rfl
  case c2 v br =>
    refine ⟨_, ?_, by
      simp only [decodeAt, MovForm.place, MovForm.low, encodeFields, decodeSecond, compactWord_dr2, compactWord_op2]; rfl⟩
    simp (disch := omega) only [Word.flag, compactWord_sel2, compactWord_vcnd, compactWord_low2_f4, halfLow_sel, halfLow_f4]
    rfl

/-- Decoding the fields of a compact move of an immediate finds its undefined row. -/
theorem decodeAt_movImmForm (dr : RegNum) (op : BitVec 5) (f : MovImmForm) :
    ∃ F : RowForms, F.mov = .undefinedMovImm dr f ∧
      decodeAt f.place.1 (encodeFields (dr, op, f.low)) = opcodeRow op dr F := by
  cases f
  case c1 v imm =>
    refine ⟨_, ?_, by
      simp only [decodeAt, MovImmForm.place, MovImmForm.low, encodeFields, decodeFirst, compactWord_dr1, compactWord_op1]; rfl⟩
    simp (disch := omega) only [Word.flag, compactWord_sel1, compactWord_vcnd, compactWord_low1_f4, halfLow_sel, halfLow_f4]
    rfl
  case c2 v imm =>
    refine ⟨_, ?_, by
      simp only [decodeAt, MovImmForm.place, MovImmForm.low, encodeFields, decodeSecond, compactWord_dr2, compactWord_op2]; rfl⟩
    simp (disch := omega) only [Word.flag, compactWord_sel2, compactWord_vcnd, compactWord_low2_f4, halfLow_sel, halfLow_f4]
    rfl

/-- Decoding the fields of an LDI finds its row with that form. -/
theorem decodeAt_ldiForm (dr : RegNum) (f : LdiForm) :
    ∃ F : RowForms, F.ldi = f ∧ decodeAt f.place.1 (encodeFields (dr, f.opcode, f.low)) = opcodeRow f.opcode dr F := by
  cases f
  case std imm =>
    refine ⟨_, ?_, by simp only [decodeAt, LdiForm.place, LdiForm.low, encodeFields, decodeStd, stdWord_dr, stdWord_op]; rfl⟩
    simp only [LdiForm.opcode, stdWord_imm23]
  case c1 blank v imm =>
    refine ⟨_, ?_, by
      simp only [decodeAt, LdiForm.place, LdiForm.low, encodeFields, decodeFirst, compactWord_dr1, compactWord_op1]; rfl⟩
    simp (disch := omega) only [Word.flag, LdiForm.opcode, compactWord_blank1, compactWord_vcnd, compactWord_low1, opBit_ofBool, ofBool_beq_one]
  case c2 blank v imm =>
    refine ⟨_, ?_, by
      simp only [decodeAt, LdiForm.place, LdiForm.low, encodeFields, decodeSecond, compactWord_dr2, compactWord_op2]; rfl⟩
    simp (disch := omega) only [Word.flag, LdiForm.opcode, compactWord_blank2, compactWord_vcnd, compactWord_low2, opBit_ofBool, ofBool_beq_one]

/-- Decoding the fields of a special encoding finds its row with that form. -/
theorem decodeAt_specialForm (op : BitVec 5) (f : SpecialForm) :
    ∃ F : RowForms, F.special = f ∧ decodeAt f.place.1 (encodeFields (f.dr, op, f.low)) = opcodeRow op f.dr F := by
  cases f
  case std l ign =>
    refine ⟨_, ?_, by
      simp only [decodeAt, SpecialForm.place, SpecialForm.low, encodeFields, decodeStd, stdWord_dr, stdWord_op]; rfl⟩
    simp (disch := omega) only [Word.flag, SpecialForm.dr, stdWord_drBit, drBit_ofBool, ofBool_beq_one, stdWord_low, BitVec.extractLsb'_eq_self]
  case c1 l v ign =>
    refine ⟨_, ?_, by
      simp only [decodeAt, SpecialForm.place, SpecialForm.low, encodeFields, decodeFirst, compactWord_dr1, compactWord_op1]; rfl⟩
    simp (disch := omega) only [Word.flag, SpecialForm.dr, compactWord_drBit1, drBit_ofBool, ofBool_beq_one, compactWord_vcnd, compactWord_low1]
  case c2 l v ign =>
    refine ⟨_, ?_, by
      simp only [decodeAt, SpecialForm.place, SpecialForm.low, encodeFields, decodeSecond, compactWord_dr2, compactWord_op2]; rfl⟩
    simp (disch := omega) only [Word.flag, SpecialForm.dr, compactWord_drBit2, drBit_ofBool, ofBool_beq_one, compactWord_vcnd, compactWord_low2]

/-- Decoding the fields of a reserved encoding finds its row with that form. -/
theorem decodeAt_reservedForm (dr : RegNum) (op : BitVec 5) (f : ReservedForm) :
    ∃ F : RowForms, F.reserved = f ∧ decodeAt f.place.1 (encodeFields (dr, op, f.low)) = opcodeRow op dr F := by
  cases f
  case std ign =>
    refine ⟨_, ?_, by
      simp only [decodeAt, ReservedForm.place, ReservedForm.low, encodeFields, decodeStd, stdWord_dr, stdWord_op]; rfl⟩
    simp (disch := omega) only [stdWord_low, BitVec.extractLsb'_eq_self]
  case c1 v ign =>
    refine ⟨_, ?_, by
      simp only [decodeAt, ReservedForm.place, ReservedForm.low, encodeFields, decodeFirst, compactWord_dr1, compactWord_op1]; rfl⟩
    simp (disch := omega) only [compactWord_vcnd, compactWord_low1]
  case c2 v ign =>
    refine ⟨_, ?_, by
      simp only [decodeAt, ReservedForm.place, ReservedForm.low, encodeFields, decodeSecond, compactWord_dr2, compactWord_op2]; rfl⟩
    simp (disch := omega) only [compactWord_vcnd, compactWord_low2]

@[simp] theorem SpecialForm.dr_special (f : SpecialForm) : RegNum.special f.dr = true := by
  rcases f with ⟨l, -⟩ | ⟨l, -, -⟩ | ⟨l, -, -⟩ <;> cases l <;> rfl

end Sys2Proof
end

