-- ==== Sys2Proof/Laws/Memory.lean ====
section
/-! SUPPORT. The laws of memory: read after write, and that a write keeps the canonical form. -/

namespace Sys2Proof.Machine

@[simp] theorem Memory.read_nil (a : Nat) : Memory.read [] a = Memory.blank := rfl

theorem Memory.read_cons (k : Nat) (w : Word) (m : Memory) (a : Nat) :
    Memory.read ((k, w) :: m) a = if k = a then w else Memory.read m a := rfl

theorem Memory.read_of_lt_all (m : Memory) (a : Nat) (h : ∀ c ∈ m, a < c.1) : Memory.read m a = Memory.blank := by
  induction m with
  | nil => rfl
  | cons c m ih =>
    obtain ⟨k, w⟩ := c
    have hk : a < k := h (k, w) (by simp)
    rw [Memory.read_cons, if_neg (by omega)]
    exact ih fun d hd => h d (by simp [hd])

theorem Memory.read_write (m : Memory) (hm : m.wf) (a b : Nat) (v : Word) :
    Memory.read (Memory.write m a v) b = if a = b then v else Memory.read m b := by
  obtain ⟨hp, hc⟩ := hm
  induction m with
  | nil =>
    by_cases hv : v = Memory.blank <;> by_cases hab : a = b <;> simp [Memory.write, Memory.read_cons, hv, hab]
  | cons c m ih =>
    obtain ⟨k, w⟩ := c
    rw [List.pairwise_cons] at hp
    have hgt : ∀ d ∈ m, k < d.1 := hp.1
    have ih' := ih hp.2 fun d hd => hc d (by simp [hd])
    simp only [Memory.write]
    split
    · rename_i hak
      split
      · rename_i hv
        by_cases hab : a = b
        · subst hab
          rw [if_pos rfl, hv]
          exact Memory.read_of_lt_all _ _ fun d hd => by
            rcases List.mem_cons.1 hd with h | h
            · simpa [h] using hak
            · have := hgt d h; omega
        · simp [hab]
      · simp [Memory.read_cons]
    · split
      · rename_i hak
        subst hak
        split
        · rename_i hv
          by_cases hab : a = b
          · subst hab
            simp [hv, Memory.read_of_lt_all m a hgt]
          · simp [Memory.read_cons, hab]
        · by_cases hab : a = b <;> simp [Memory.read_cons, hab]
      · rename_i hlt hne
        rw [Memory.read_cons, ih', Memory.read_cons]
        by_cases hkb : k = b
        · subst hkb; simp [hne]
        · simp [hkb]

theorem Memory.mem_write (m : Memory) (a : Nat) (v : Word) (c : Nat × Word) (h : c ∈ Memory.write m a v) :
    c ∈ m ∨ (c = (a, v) ∧ v ≠ Memory.blank) := by
  induction m with
  | nil =>
    simp only [Memory.write] at h
    split at h <;> simp_all
  | cons d m ih =>
    obtain ⟨k, w⟩ := d
    simp only [Memory.write] at h
    split at h
    · split at h
      · exact .inl h
      · rcases List.mem_cons.1 h with h | h
        · exact .inr ⟨h, ‹_›⟩
        · exact .inl h
    · split at h
      · split at h
        · exact .inl (by simp [h])
        · rcases List.mem_cons.1 h with h | h
          · exact .inr ⟨h, ‹_›⟩
          · exact .inl (by simp [h])
      · rcases List.mem_cons.1 h with h | h
        · exact .inl (by simp [h])
        · rcases ih h with h | h
          · exact .inl (by simp [h])
          · exact .inr h

/-- A write keeps the canonical form. -/
theorem Memory.wf_write (m : Memory) (hm : m.wf) (a : Nat) (ha : a < 2 ^ 32) (v : Word) : (Memory.write m a v).wf := by
  refine ⟨?_, fun c hc => ?_⟩
  · obtain ⟨hp, -⟩ := hm
    induction m with
    | nil =>
      simp only [Memory.write]
      split <;> simp
    | cons d m ih =>
      obtain ⟨k, w⟩ := d
      have hp' := List.pairwise_cons.1 hp
      have hgt : ∀ e ∈ m, k < e.1 := hp'.1
      simp only [Memory.write]
      split
      · rename_i hak
        split
        · exact hp
        · refine List.pairwise_cons.2 ⟨fun e he => ?_, hp⟩
          rcases List.mem_cons.1 he with h | h
          · simpa [h] using hak
          · have := hgt e h; simp; omega
      · split
        · rename_i hak
          split
          · exact hp'.2
          · exact List.pairwise_cons.2 ⟨fun e he => by have := hgt e he; simp; omega, hp'.2⟩
        · rename_i hlt hne
          refine List.pairwise_cons.2 ⟨fun e he => ?_, ih hp'.2⟩
          rcases Memory.mem_write m a v e he with h | ⟨h, -⟩
          · exact hgt e h
          · simp [h]; omega
  · rcases Memory.mem_write m a v c hc with h | ⟨h, hv⟩
    · exact hm.2 c h
    · subst h; exact ⟨hv, ha⟩

/-- Two canonical memories that read alike are equal. -/
theorem Memory.ext_of_read (m m' : Memory) (hm : m.wf) (hm' : m'.wf) (h : ∀ a, Memory.read m a = Memory.read m' a) :
    m = m' := by
  induction m generalizing m' with
  | nil =>
    cases m' with
    | nil => rfl
    | cons c m' =>
      have := h c.1
      rw [Memory.read_nil, Memory.read_cons, if_pos rfl] at this
      exact absurd this.symm (hm'.2 c (by simp)).1
  | cons c m ih =>
    obtain ⟨k, w⟩ := c
    have hp := List.pairwise_cons.1 hm.1
    have hw := (hm.2 (k, w) (by simp)).1
    cases m' with
    | nil =>
      have := h k
      rw [Memory.read_cons, if_pos rfl, Memory.read_nil] at this
      exact absurd this hw
    | cons c' m' =>
      obtain ⟨k', w'⟩ := c'
      have hp' := List.pairwise_cons.1 hm'.1
      have hw' := (hm'.2 (k', w') (by simp)).1
      have hkk : k = k' := by
        rcases Nat.lt_trichotomy k k' with hlt | heq | hgt
        · have hk := h k
          rw [Memory.read_cons, if_pos rfl, Memory.read_of_lt_all] at hk
          · exact absurd hk hw
          · intro d hd
            rcases List.mem_cons.1 hd with e | e
            · simpa [e] using hlt
            · have := hp'.1 d e; simp at this; omega
        · exact heq
        · have hk := h k'
          rw [Memory.read_cons (k := k'), if_pos rfl, Memory.read_of_lt_all] at hk
          · exact absurd hk.symm hw'
          · intro d hd
            rcases List.mem_cons.1 hd with e | e
            · simpa [e] using hgt
            · have := hp.1 d e; simp at this; omega
      subst hkk
      have hww : w = w' := by simpa [Memory.read_cons] using h k
      subst hww
      rw [ih m' ⟨hp.2, fun c hc => hm.2 c (by simp [hc])⟩ ⟨hp'.2, fun c hc => hm'.2 c (by simp [hc])⟩ fun a => ?_]
      by_cases hka : k = a
      · subst hka
        rw [Memory.read_of_lt_all m k hp.1, Memory.read_of_lt_all m' k hp'.1]
      · simpa [Memory.read_cons, hka] using h a

/-- The memory after reset is canonical. -/
theorem reset_mem_wf : State.reset.mem.wf := by decide

/-- Memory after `poke`: the word written at its address, every other address as before. -/
theorem State.peek_poke (s : State) (hm : s.mem.wf) (a b v : Word) :
    (s.poke a v).peek b = if a = b then v else s.peek b := by
  simp only [State.poke, State.peek, Memory.read_write _ hm]
  by_cases h : a = b
  · simp [h]
  · rw [if_neg h, if_neg fun e => h (BitVec.eq_of_toNat_eq e)]

theorem State.poke_mem_wf (s : State) (hm : s.mem.wf) (a v : Word) : (s.poke a v).mem.wf :=
  Memory.wf_write _ hm _ a.isLt _

end Sys2Proof.Machine
end

