-- ==== Sys2Proof/Laws/State.lean ====
section
/-! SUPPORT. One lemma per field per update of the state, tagged simp, so that no later proof unfolds a record update. -/

namespace Sys2Proof.Machine

/-! ### Replacing the current set -/

@[simp] theorem State.setCur_gie (s : State) (rs : RegSet) : (s.setCur rs).gie = s.gie :=
  by unfold State.setCur; split <;> rfl
@[simp] theorem State.setCur_sleep (s : State) (rs : RegSet) : (s.setCur rs).sleep = s.sleep :=
  by unfold State.setCur; split <;> rfl
@[simp] theorem State.setCur_stepBit (s : State) (rs : RegSet) : (s.setCur rs).stepBit = s.stepBit :=
  by unfold State.setCur; split <;> rfl
@[simp] theorem State.setCur_breakEn (s : State) (rs : RegSet) : (s.setCur rs).breakEn = s.breakEn :=
  by unfold State.setCur; split <;> rfl
@[simp] theorem State.setCur_trap (s : State) (rs : RegSet) : (s.setCur rs).trap = s.trap :=
  by unfold State.setCur; split <;> rfl
@[simp] theorem State.setCur_halted (s : State) (rs : RegSet) : (s.setCur rs).halted = s.halted :=
  by unfold State.setCur; split <;> rfl
@[simp] theorem State.setCur_lockCount (s : State) (rs : RegSet) : (s.setCur rs).lockCount = s.lockCount :=
  by unfold State.setCur; split <;> rfl
@[simp] theorem State.setCur_busDeadlocked (s : State) (rs : RegSet) : (s.setCur rs).busDeadlocked = s.busDeadlocked :=
  by unfold State.setCur; split <;> rfl
@[simp] theorem State.setCur_mem (s : State) (rs : RegSet) : (s.setCur rs).mem = s.mem :=
  by unfold State.setCur; split <;> rfl
@[simp] theorem State.setCur_regions (s : State) (rs : RegSet) : (s.setCur rs).regions = s.regions :=
  by unfold State.setCur; split <;> rfl
@[simp] theorem State.setCur_resetAddress (s : State) (rs : RegSet) : (s.setCur rs).resetAddress = s.resetAddress :=
  by unfold State.setCur; split <;> rfl
@[simp] theorem State.setCur_inputs (s : State) (rs : RegSet) : (s.setCur rs).inputs = s.inputs :=
  by unfold State.setCur; split <;> rfl
@[simp] theorem State.setCur_heldWrites (s : State) (rs : RegSet) : (s.setCur rs).heldWrites = s.heldWrites :=
  by unfold State.setCur; split <;> rfl
@[simp] theorem State.setCur_busLog (s : State) (rs : RegSet) : (s.setCur rs).busLog = s.busLog :=
  by unfold State.setCur; split <;> rfl
@[simp] theorem State.setCur_stale (s : State) (rs : RegSet) : (s.setCur rs).stale = s.stale :=
  by unfold State.setCur; split <;> rfl
@[simp] theorem State.setCur_wordAddr (s : State) (rs : RegSet) : (s.setCur rs).wordAddr = s.wordAddr :=
  by unfold State.setCur; split <;> rfl
@[simp] theorem State.setCur_control (s : State) (rs : RegSet) : (s.setCur rs).control = s.control :=
  by unfold State.setCur; split <;> rfl
@[simp] theorem State.setCur_draws (s : State) (rs : RegSet) : (s.setCur rs).draws = s.draws :=
  by unfold State.setCur; split <;> rfl

@[simp] theorem State.setCur_cur (s : State) (rs : RegSet) : (s.setCur rs).cur = rs := by
  unfold State.setCur State.cur; split <;> simp_all
theorem State.setCur_sup (s : State) (rs : RegSet) : (s.setCur rs).sup = if s.gie then s.sup else rs := by
  unfold State.setCur; split <;> rfl
theorem State.setCur_usr (s : State) (rs : RegSet) : (s.setCur rs).usr = if s.gie then rs else s.usr := by
  unfold State.setCur; split <;> rfl
theorem State.cur_user (s : State) (h : s.gie = true) : s.cur = s.usr := by simp [State.cur, h]
theorem State.cur_sup (s : State) (h : s.gie = false) : s.cur = s.sup := by simp [State.cur, h]
theorem State.setCur_self (s : State) : s.setCur s.cur = s := by
  unfold State.setCur State.cur; split <;> rfl

/-! ### Writing the stored PC -/

@[simp] theorem State.setPc_gie (s : State) (v : Word) : (s.setPc v).gie = s.gie := by simp [State.setPc]
@[simp] theorem State.setPc_sleep (s : State) (v : Word) : (s.setPc v).sleep = s.sleep := by simp [State.setPc]
@[simp] theorem State.setPc_stepBit (s : State) (v : Word) : (s.setPc v).stepBit = s.stepBit := by simp [State.setPc]
@[simp] theorem State.setPc_breakEn (s : State) (v : Word) : (s.setPc v).breakEn = s.breakEn := by simp [State.setPc]
@[simp] theorem State.setPc_trap (s : State) (v : Word) : (s.setPc v).trap = s.trap := by simp [State.setPc]
@[simp] theorem State.setPc_halted (s : State) (v : Word) : (s.setPc v).halted = s.halted := by simp [State.setPc]
@[simp] theorem State.setPc_lockCount (s : State) (v : Word) : (s.setPc v).lockCount = s.lockCount :=
  by simp [State.setPc]
@[simp] theorem State.setPc_busDeadlocked (s : State) (v : Word) : (s.setPc v).busDeadlocked = s.busDeadlocked :=
  by simp [State.setPc]
@[simp] theorem State.setPc_mem (s : State) (v : Word) : (s.setPc v).mem = s.mem := by simp [State.setPc]
@[simp] theorem State.setPc_regions (s : State) (v : Word) : (s.setPc v).regions = s.regions := by simp [State.setPc]
@[simp] theorem State.setPc_resetAddress (s : State) (v : Word) : (s.setPc v).resetAddress = s.resetAddress :=
  by simp [State.setPc]
@[simp] theorem State.setPc_inputs (s : State) (v : Word) : (s.setPc v).inputs = s.inputs := by simp [State.setPc]
@[simp] theorem State.setPc_heldWrites (s : State) (v : Word) : (s.setPc v).heldWrites = s.heldWrites :=
  by simp [State.setPc]
@[simp] theorem State.setPc_busLog (s : State) (v : Word) : (s.setPc v).busLog = s.busLog := by simp [State.setPc]
@[simp] theorem State.setPc_stale (s : State) (v : Word) : (s.setPc v).stale = s.stale := by simp [State.setPc]
@[simp] theorem State.setPc_wordAddr (s : State) (v : Word) : (s.setPc v).wordAddr = s.wordAddr :=
  by simp [State.setPc]
@[simp] theorem State.setPc_control (s : State) (v : Word) : (s.setPc v).control = s.control := by simp [State.setPc]
@[simp] theorem State.setPc_draws (s : State) (v : Word) : (s.setPc v).draws = s.draws := by simp [State.setPc]

@[simp] theorem State.setPc_cur (s : State) (v : Word) : (s.setPc v).cur = { s.cur with pc := v } := by simp [State.setPc]

/-! ### Counting draws -/

@[simp] theorem State.countDraws_sup (s : State) (k : Nat) : (s.countDraws k).sup = s.sup := rfl
@[simp] theorem State.countDraws_usr (s : State) (k : Nat) : (s.countDraws k).usr = s.usr := rfl
@[simp] theorem State.countDraws_gie (s : State) (k : Nat) : (s.countDraws k).gie = s.gie := rfl
@[simp] theorem State.countDraws_sleep (s : State) (k : Nat) : (s.countDraws k).sleep = s.sleep := rfl
@[simp] theorem State.countDraws_stepBit (s : State) (k : Nat) : (s.countDraws k).stepBit = s.stepBit := rfl
@[simp] theorem State.countDraws_breakEn (s : State) (k : Nat) : (s.countDraws k).breakEn = s.breakEn := rfl
@[simp] theorem State.countDraws_trap (s : State) (k : Nat) : (s.countDraws k).trap = s.trap := rfl
@[simp] theorem State.countDraws_halted (s : State) (k : Nat) : (s.countDraws k).halted = s.halted := rfl
@[simp] theorem State.countDraws_lockCount (s : State) (k : Nat) : (s.countDraws k).lockCount = s.lockCount := rfl
@[simp] theorem State.countDraws_busDeadlocked (s : State) (k : Nat) : (s.countDraws k).busDeadlocked = s.busDeadlocked :=
  rfl
@[simp] theorem State.countDraws_mem (s : State) (k : Nat) : (s.countDraws k).mem = s.mem := rfl
@[simp] theorem State.countDraws_regions (s : State) (k : Nat) : (s.countDraws k).regions = s.regions := rfl
@[simp] theorem State.countDraws_resetAddress (s : State) (k : Nat) : (s.countDraws k).resetAddress = s.resetAddress :=
  rfl
@[simp] theorem State.countDraws_inputs (s : State) (k : Nat) : (s.countDraws k).inputs = s.inputs := rfl
@[simp] theorem State.countDraws_heldWrites (s : State) (k : Nat) : (s.countDraws k).heldWrites = s.heldWrites := rfl
@[simp] theorem State.countDraws_busLog (s : State) (k : Nat) : (s.countDraws k).busLog = s.busLog := rfl
@[simp] theorem State.countDraws_stale (s : State) (k : Nat) : (s.countDraws k).stale = s.stale := rfl
@[simp] theorem State.countDraws_wordAddr (s : State) (k : Nat) : (s.countDraws k).wordAddr = s.wordAddr := rfl
@[simp] theorem State.countDraws_control (s : State) (k : Nat) : (s.countDraws k).control = s.control := rfl
@[simp] theorem State.countDraws_draws (s : State) (k : Nat) : (s.countDraws k).draws = s.draws + k := rfl

@[simp] theorem State.countDraws_cur (s : State) (k : Nat) : (s.countDraws k).cur = s.cur := rfl

/-! ### Halting -/

@[simp] theorem State.halt_sup (s : State) (r : HaltReason) : (s.halt r).sup = s.sup := rfl
@[simp] theorem State.halt_usr (s : State) (r : HaltReason) : (s.halt r).usr = s.usr := rfl
@[simp] theorem State.halt_gie (s : State) (r : HaltReason) : (s.halt r).gie = s.gie := rfl
@[simp] theorem State.halt_sleep (s : State) (r : HaltReason) : (s.halt r).sleep = s.sleep := rfl
@[simp] theorem State.halt_stepBit (s : State) (r : HaltReason) : (s.halt r).stepBit = s.stepBit := rfl
@[simp] theorem State.halt_breakEn (s : State) (r : HaltReason) : (s.halt r).breakEn = s.breakEn := rfl
@[simp] theorem State.halt_trap (s : State) (r : HaltReason) : (s.halt r).trap = s.trap := rfl
@[simp] theorem State.halt_halted (s : State) (r : HaltReason) : (s.halt r).halted = some r := rfl
@[simp] theorem State.halt_lockCount (s : State) (r : HaltReason) : (s.halt r).lockCount = s.lockCount := rfl
@[simp] theorem State.halt_busDeadlocked (s : State) (r : HaltReason) : (s.halt r).busDeadlocked = s.busDeadlocked :=
  rfl
@[simp] theorem State.halt_mem (s : State) (r : HaltReason) : (s.halt r).mem = s.mem := rfl
@[simp] theorem State.halt_regions (s : State) (r : HaltReason) : (s.halt r).regions = s.regions := rfl
@[simp] theorem State.halt_resetAddress (s : State) (r : HaltReason) : (s.halt r).resetAddress = s.resetAddress := rfl
@[simp] theorem State.halt_inputs (s : State) (r : HaltReason) : (s.halt r).inputs = s.inputs := rfl
@[simp] theorem State.halt_heldWrites (s : State) (r : HaltReason) : (s.halt r).heldWrites = s.heldWrites := rfl
@[simp] theorem State.halt_busLog (s : State) (r : HaltReason) : (s.halt r).busLog = s.busLog := rfl
@[simp] theorem State.halt_stale (s : State) (r : HaltReason) : (s.halt r).stale = s.stale := rfl
@[simp] theorem State.halt_wordAddr (s : State) (r : HaltReason) : (s.halt r).wordAddr = s.wordAddr := rfl
@[simp] theorem State.halt_control (s : State) (r : HaltReason) : (s.halt r).control = true := rfl
@[simp] theorem State.halt_draws (s : State) (r : HaltReason) : (s.halt r).draws = s.draws := rfl

@[simp] theorem State.halt_cur (s : State) (r : HaltReason) : (s.halt r).cur = s.cur := rfl

/-! ### A deadlock of the bus -/

@[simp] theorem State.deadlockBus_sup (s : State) : (s.deadlockBus).sup = s.sup := rfl
@[simp] theorem State.deadlockBus_usr (s : State) : (s.deadlockBus).usr = s.usr := rfl
@[simp] theorem State.deadlockBus_gie (s : State) : (s.deadlockBus).gie = s.gie := rfl
@[simp] theorem State.deadlockBus_sleep (s : State) : (s.deadlockBus).sleep = s.sleep := rfl
@[simp] theorem State.deadlockBus_stepBit (s : State) : (s.deadlockBus).stepBit = s.stepBit := rfl
@[simp] theorem State.deadlockBus_breakEn (s : State) : (s.deadlockBus).breakEn = s.breakEn := rfl
@[simp] theorem State.deadlockBus_trap (s : State) : (s.deadlockBus).trap = s.trap := rfl
@[simp] theorem State.deadlockBus_halted (s : State) : (s.deadlockBus).halted = s.halted := rfl
@[simp] theorem State.deadlockBus_lockCount (s : State) : (s.deadlockBus).lockCount = s.lockCount := rfl
@[simp] theorem State.deadlockBus_busDeadlocked (s : State) : (s.deadlockBus).busDeadlocked = true := rfl
@[simp] theorem State.deadlockBus_mem (s : State) : (s.deadlockBus).mem = s.mem := rfl
@[simp] theorem State.deadlockBus_regions (s : State) : (s.deadlockBus).regions = s.regions := rfl
@[simp] theorem State.deadlockBus_resetAddress (s : State) : (s.deadlockBus).resetAddress = s.resetAddress := rfl
@[simp] theorem State.deadlockBus_inputs (s : State) : (s.deadlockBus).inputs = s.inputs := rfl
@[simp] theorem State.deadlockBus_heldWrites (s : State) : (s.deadlockBus).heldWrites = s.heldWrites := rfl
@[simp] theorem State.deadlockBus_busLog (s : State) : (s.deadlockBus).busLog = s.busLog := rfl
@[simp] theorem State.deadlockBus_stale (s : State) : (s.deadlockBus).stale = s.stale := rfl
@[simp] theorem State.deadlockBus_wordAddr (s : State) : (s.deadlockBus).wordAddr = s.wordAddr := rfl
@[simp] theorem State.deadlockBus_control (s : State) : (s.deadlockBus).control = true := rfl
@[simp] theorem State.deadlockBus_draws (s : State) : (s.deadlockBus).draws = s.draws := rfl

@[simp] theorem State.deadlockBus_cur (s : State) : s.deadlockBus.cur = s.cur := rfl

/-! ### Entering supervisor mode -/

@[simp] theorem State.enterSupervisor_sup (s : State) (v : Word) : (s.enterSupervisor v).sup = s.sup := rfl
@[simp] theorem State.enterSupervisor_usr (s : State) (v : Word) : (s.enterSupervisor v).usr = { s.usr with pc := v } :=
  rfl
@[simp] theorem State.enterSupervisor_gie (s : State) (v : Word) : (s.enterSupervisor v).gie = false := rfl
@[simp] theorem State.enterSupervisor_sleep (s : State) (v : Word) : (s.enterSupervisor v).sleep = false := rfl
@[simp] theorem State.enterSupervisor_stepBit (s : State) (v : Word) : (s.enterSupervisor v).stepBit = false := rfl
@[simp] theorem State.enterSupervisor_breakEn (s : State) (v : Word) : (s.enterSupervisor v).breakEn = s.breakEn :=
  rfl
@[simp] theorem State.enterSupervisor_trap (s : State) (v : Word) : (s.enterSupervisor v).trap = s.trap := rfl
@[simp] theorem State.enterSupervisor_halted (s : State) (v : Word) : (s.enterSupervisor v).halted = s.halted := rfl
@[simp] theorem State.enterSupervisor_lockCount (s : State) (v : Word) : (s.enterSupervisor v).lockCount = 0 := rfl
@[simp] theorem State.enterSupervisor_busDeadlocked (s : State) (v : Word) : (s.enterSupervisor v).busDeadlocked = s.busDeadlocked :=
  rfl
@[simp] theorem State.enterSupervisor_mem (s : State) (v : Word) : (s.enterSupervisor v).mem = s.mem := rfl
@[simp] theorem State.enterSupervisor_regions (s : State) (v : Word) : (s.enterSupervisor v).regions = s.regions :=
  rfl
@[simp] theorem State.enterSupervisor_resetAddress (s : State) (v : Word) : (s.enterSupervisor v).resetAddress = s.resetAddress :=
  rfl
@[simp] theorem State.enterSupervisor_inputs (s : State) (v : Word) : (s.enterSupervisor v).inputs = s.inputs := rfl
@[simp] theorem State.enterSupervisor_heldWrites (s : State) (v : Word) : (s.enterSupervisor v).heldWrites = s.heldWrites :=
  rfl
@[simp] theorem State.enterSupervisor_busLog (s : State) (v : Word) : (s.enterSupervisor v).busLog = s.busLog := rfl
@[simp] theorem State.enterSupervisor_stale (s : State) (v : Word) : (s.enterSupervisor v).stale = s.stale := rfl
@[simp] theorem State.enterSupervisor_wordAddr (s : State) (v : Word) : (s.enterSupervisor v).wordAddr = s.wordAddr :=
  rfl
@[simp] theorem State.enterSupervisor_control (s : State) (v : Word) : (s.enterSupervisor v).control = true := rfl
@[simp] theorem State.enterSupervisor_draws (s : State) (v : Word) : (s.enterSupervisor v).draws = s.draws := rfl

/-! ### Returning to user mode -/

@[simp] theorem State.returnToUser_sup (s : State) : (s.returnToUser).sup = { s.sup with pc := s.wordAddr + 1#32 } :=
  rfl
@[simp] theorem State.returnToUser_usr (s : State) : (s.returnToUser).usr = s.usr.clearExc := rfl
@[simp] theorem State.returnToUser_gie (s : State) : (s.returnToUser).gie = true := rfl
@[simp] theorem State.returnToUser_sleep (s : State) : (s.returnToUser).sleep = s.sleep := rfl
@[simp] theorem State.returnToUser_stepBit (s : State) : (s.returnToUser).stepBit = s.stepBit := rfl
@[simp] theorem State.returnToUser_breakEn (s : State) : (s.returnToUser).breakEn = s.breakEn := rfl
@[simp] theorem State.returnToUser_trap (s : State) : (s.returnToUser).trap = false := rfl
@[simp] theorem State.returnToUser_halted (s : State) : (s.returnToUser).halted = s.halted := rfl
@[simp] theorem State.returnToUser_lockCount (s : State) : (s.returnToUser).lockCount = s.lockCount := rfl
@[simp] theorem State.returnToUser_busDeadlocked (s : State) : (s.returnToUser).busDeadlocked = s.busDeadlocked := rfl
@[simp] theorem State.returnToUser_mem (s : State) : (s.returnToUser).mem = s.mem := rfl
@[simp] theorem State.returnToUser_regions (s : State) : (s.returnToUser).regions = s.regions := rfl
@[simp] theorem State.returnToUser_resetAddress (s : State) : (s.returnToUser).resetAddress = s.resetAddress := rfl
@[simp] theorem State.returnToUser_inputs (s : State) : (s.returnToUser).inputs = s.inputs := rfl
@[simp] theorem State.returnToUser_heldWrites (s : State) : (s.returnToUser).heldWrites = s.heldWrites := rfl
@[simp] theorem State.returnToUser_busLog (s : State) : (s.returnToUser).busLog = s.busLog := rfl
@[simp] theorem State.returnToUser_stale (s : State) : (s.returnToUser).stale = s.stale := rfl
@[simp] theorem State.returnToUser_wordAddr (s : State) : (s.returnToUser).wordAddr = s.wordAddr := rfl
@[simp] theorem State.returnToUser_control (s : State) : (s.returnToUser).control = true := rfl
@[simp] theorem State.returnToUser_draws (s : State) : (s.returnToUser).draws = s.draws := rfl

/-! ### A jump -/

@[simp] theorem State.jump_gie (s : State) (v : Word) : (s.jump v).gie = s.gie := by simp [State.jump]
@[simp] theorem State.jump_sleep (s : State) (v : Word) : (s.jump v).sleep = s.sleep := by simp [State.jump]
@[simp] theorem State.jump_stepBit (s : State) (v : Word) : (s.jump v).stepBit = s.stepBit := by simp [State.jump]
@[simp] theorem State.jump_breakEn (s : State) (v : Word) : (s.jump v).breakEn = s.breakEn := by simp [State.jump]
@[simp] theorem State.jump_trap (s : State) (v : Word) : (s.jump v).trap = s.trap := by simp [State.jump]
@[simp] theorem State.jump_halted (s : State) (v : Word) : (s.jump v).halted = s.halted := by simp [State.jump]
@[simp] theorem State.jump_lockCount (s : State) (v : Word) : (s.jump v).lockCount = s.lockCount :=
  by simp [State.jump]
@[simp] theorem State.jump_busDeadlocked (s : State) (v : Word) : (s.jump v).busDeadlocked = s.busDeadlocked :=
  by simp [State.jump]
@[simp] theorem State.jump_mem (s : State) (v : Word) : (s.jump v).mem = s.mem := by simp [State.jump]
@[simp] theorem State.jump_regions (s : State) (v : Word) : (s.jump v).regions = s.regions := by simp [State.jump]
@[simp] theorem State.jump_resetAddress (s : State) (v : Word) : (s.jump v).resetAddress = s.resetAddress :=
  by simp [State.jump]
@[simp] theorem State.jump_inputs (s : State) (v : Word) : (s.jump v).inputs = s.inputs := by simp [State.jump]
@[simp] theorem State.jump_heldWrites (s : State) (v : Word) : (s.jump v).heldWrites = s.heldWrites :=
  by simp [State.jump]
@[simp] theorem State.jump_busLog (s : State) (v : Word) : (s.jump v).busLog = s.busLog := by simp [State.jump]
@[simp] theorem State.jump_stale (s : State) (v : Word) : (s.jump v).stale = s.stale := by simp [State.jump]
@[simp] theorem State.jump_wordAddr (s : State) (v : Word) : (s.jump v).wordAddr = s.wordAddr := by simp [State.jump]
@[simp] theorem State.jump_control (s : State) (v : Word) : (s.jump v).control = true := by simp [State.jump]
@[simp] theorem State.jump_draws (s : State) (v : Word) : (s.jump v).draws = s.draws := by simp [State.jump]

@[simp] theorem State.jump_cur (s : State) (v : Word) : (s.jump v).cur = { s.cur with pc := v } := s.setPc_cur v

/-! ### Writing the flags -/

@[simp] theorem State.writeFlags_gie (s : State) (r : Word) (cv : CarryOverflow) : (s.writeFlags r cv).gie = s.gie :=
  by simp [State.writeFlags]
@[simp] theorem State.writeFlags_sleep (s : State) (r : Word) (cv : CarryOverflow) : (s.writeFlags r cv).sleep = s.sleep :=
  by simp [State.writeFlags]
@[simp] theorem State.writeFlags_stepBit (s : State) (r : Word) (cv : CarryOverflow) : (s.writeFlags r cv).stepBit = s.stepBit :=
  by simp [State.writeFlags]
@[simp] theorem State.writeFlags_breakEn (s : State) (r : Word) (cv : CarryOverflow) : (s.writeFlags r cv).breakEn = s.breakEn :=
  by simp [State.writeFlags]
@[simp] theorem State.writeFlags_trap (s : State) (r : Word) (cv : CarryOverflow) : (s.writeFlags r cv).trap = s.trap :=
  by simp [State.writeFlags]
@[simp] theorem State.writeFlags_halted (s : State) (r : Word) (cv : CarryOverflow) : (s.writeFlags r cv).halted = s.halted :=
  by simp [State.writeFlags]
@[simp] theorem State.writeFlags_lockCount (s : State) (r : Word) (cv : CarryOverflow) : (s.writeFlags r cv).lockCount = s.lockCount :=
  by simp [State.writeFlags]
@[simp] theorem State.writeFlags_busDeadlocked (s : State) (r : Word) (cv : CarryOverflow) : (s.writeFlags r cv).busDeadlocked = s.busDeadlocked :=
  by simp [State.writeFlags]
@[simp] theorem State.writeFlags_mem (s : State) (r : Word) (cv : CarryOverflow) : (s.writeFlags r cv).mem = s.mem :=
  by simp [State.writeFlags]
@[simp] theorem State.writeFlags_regions (s : State) (r : Word) (cv : CarryOverflow) : (s.writeFlags r cv).regions = s.regions :=
  by simp [State.writeFlags]
@[simp] theorem State.writeFlags_resetAddress (s : State) (r : Word) (cv : CarryOverflow) : (s.writeFlags r cv).resetAddress = s.resetAddress :=
  by simp [State.writeFlags]
@[simp] theorem State.writeFlags_inputs (s : State) (r : Word) (cv : CarryOverflow) : (s.writeFlags r cv).inputs = s.inputs :=
  by simp [State.writeFlags]
@[simp] theorem State.writeFlags_heldWrites (s : State) (r : Word) (cv : CarryOverflow) : (s.writeFlags r cv).heldWrites = s.heldWrites :=
  by simp [State.writeFlags]
@[simp] theorem State.writeFlags_busLog (s : State) (r : Word) (cv : CarryOverflow) : (s.writeFlags r cv).busLog = s.busLog :=
  by simp [State.writeFlags]
@[simp] theorem State.writeFlags_stale (s : State) (r : Word) (cv : CarryOverflow) : (s.writeFlags r cv).stale = s.stale :=
  by simp [State.writeFlags]
@[simp] theorem State.writeFlags_wordAddr (s : State) (r : Word) (cv : CarryOverflow) : (s.writeFlags r cv).wordAddr = s.wordAddr :=
  by simp [State.writeFlags]
@[simp] theorem State.writeFlags_control (s : State) (r : Word) (cv : CarryOverflow) : (s.writeFlags r cv).control = s.control :=
  by simp [State.writeFlags]
@[simp] theorem State.writeFlags_draws (s : State) (r : Word) (cv : CarryOverflow) : (s.writeFlags r cv).draws = s.draws + 2 :=
  by simp [State.writeFlags]

@[simp] theorem State.writeFlags_cur (s : State) (r : Word) (cv : CarryOverflow) :
    (s.writeFlags r cv).cur = { s.cur with flags := flagsOf r cv s.draws } := by simp [State.writeFlags]

/-! ### Writing a word of memory -/

@[simp] theorem State.poke_sup (s : State) (a v : Word) : (s.poke a v).sup = s.sup := rfl
@[simp] theorem State.poke_usr (s : State) (a v : Word) : (s.poke a v).usr = s.usr := rfl
@[simp] theorem State.poke_gie (s : State) (a v : Word) : (s.poke a v).gie = s.gie := rfl
@[simp] theorem State.poke_sleep (s : State) (a v : Word) : (s.poke a v).sleep = s.sleep := rfl
@[simp] theorem State.poke_stepBit (s : State) (a v : Word) : (s.poke a v).stepBit = s.stepBit := rfl
@[simp] theorem State.poke_breakEn (s : State) (a v : Word) : (s.poke a v).breakEn = s.breakEn := rfl
@[simp] theorem State.poke_trap (s : State) (a v : Word) : (s.poke a v).trap = s.trap := rfl
@[simp] theorem State.poke_halted (s : State) (a v : Word) : (s.poke a v).halted = s.halted := rfl
@[simp] theorem State.poke_lockCount (s : State) (a v : Word) : (s.poke a v).lockCount = s.lockCount := rfl
@[simp] theorem State.poke_busDeadlocked (s : State) (a v : Word) : (s.poke a v).busDeadlocked = s.busDeadlocked :=
  rfl
@[simp] theorem State.poke_regions (s : State) (a v : Word) : (s.poke a v).regions = s.regions := rfl
@[simp] theorem State.poke_resetAddress (s : State) (a v : Word) : (s.poke a v).resetAddress = s.resetAddress := rfl
@[simp] theorem State.poke_inputs (s : State) (a v : Word) : (s.poke a v).inputs = s.inputs := rfl
@[simp] theorem State.poke_heldWrites (s : State) (a v : Word) : (s.poke a v).heldWrites = s.heldWrites := rfl
@[simp] theorem State.poke_busLog (s : State) (a v : Word) : (s.poke a v).busLog = s.busLog := rfl
@[simp] theorem State.poke_wordAddr (s : State) (a v : Word) : (s.poke a v).wordAddr = s.wordAddr := rfl
@[simp] theorem State.poke_control (s : State) (a v : Word) : (s.poke a v).control = s.control := rfl
@[simp] theorem State.poke_draws (s : State) (a v : Word) : (s.poke a v).draws = s.draws := rfl

@[simp] theorem State.poke_mem (s : State) (a v : Word) : (s.poke a v).mem = s.mem.write a.toNat v := rfl
@[simp] theorem State.poke_cur (s : State) (a v : Word) : (s.poke a v).cur = s.cur := rfl

/-! ### Presenting an access -/

@[simp] theorem State.present_sup (s : State) (e : BusEvent) : (s.present e).sup = s.sup := rfl
@[simp] theorem State.present_usr (s : State) (e : BusEvent) : (s.present e).usr = s.usr := rfl
@[simp] theorem State.present_gie (s : State) (e : BusEvent) : (s.present e).gie = s.gie := rfl
@[simp] theorem State.present_sleep (s : State) (e : BusEvent) : (s.present e).sleep = s.sleep := rfl
@[simp] theorem State.present_stepBit (s : State) (e : BusEvent) : (s.present e).stepBit = s.stepBit := rfl
@[simp] theorem State.present_breakEn (s : State) (e : BusEvent) : (s.present e).breakEn = s.breakEn := rfl
@[simp] theorem State.present_trap (s : State) (e : BusEvent) : (s.present e).trap = s.trap := rfl
@[simp] theorem State.present_halted (s : State) (e : BusEvent) : (s.present e).halted = s.halted := rfl
@[simp] theorem State.present_lockCount (s : State) (e : BusEvent) : (s.present e).lockCount = s.lockCount := rfl
@[simp] theorem State.present_busDeadlocked (s : State) (e : BusEvent) : (s.present e).busDeadlocked = s.busDeadlocked :=
  rfl
@[simp] theorem State.present_mem (s : State) (e : BusEvent) : (s.present e).mem = s.mem := rfl
@[simp] theorem State.present_regions (s : State) (e : BusEvent) : (s.present e).regions = s.regions := rfl
@[simp] theorem State.present_resetAddress (s : State) (e : BusEvent) : (s.present e).resetAddress = s.resetAddress :=
  rfl
@[simp] theorem State.present_inputs (s : State) (e : BusEvent) : (s.present e).inputs = s.inputs := rfl
@[simp] theorem State.present_heldWrites (s : State) (e : BusEvent) : (s.present e).heldWrites = s.heldWrites := rfl
@[simp] theorem State.present_busLog (s : State) (e : BusEvent) : (s.present e).busLog = e :: s.busLog := rfl
@[simp] theorem State.present_stale (s : State) (e : BusEvent) : (s.present e).stale = s.stale := rfl
@[simp] theorem State.present_wordAddr (s : State) (e : BusEvent) : (s.present e).wordAddr = s.wordAddr := rfl
@[simp] theorem State.present_control (s : State) (e : BusEvent) : (s.present e).control = s.control := rfl
@[simp] theorem State.present_draws (s : State) (e : BusEvent) : (s.present e).draws = s.draws := rfl

@[simp] theorem State.present_cur (s : State) (e : BusEvent) : (s.present e).cur = s.cur := rfl

/-! ### Writes that wait -/

@[simp] theorem State.queueWrites_sup (s : State) (ws : List (Word × Word)) : (s.queueWrites ws).sup = s.sup := rfl
@[simp] theorem State.queueWrites_usr (s : State) (ws : List (Word × Word)) : (s.queueWrites ws).usr = s.usr := rfl
@[simp] theorem State.queueWrites_gie (s : State) (ws : List (Word × Word)) : (s.queueWrites ws).gie = s.gie := rfl
@[simp] theorem State.queueWrites_sleep (s : State) (ws : List (Word × Word)) : (s.queueWrites ws).sleep = s.sleep :=
  rfl
@[simp] theorem State.queueWrites_stepBit (s : State) (ws : List (Word × Word)) : (s.queueWrites ws).stepBit = s.stepBit :=
  rfl
@[simp] theorem State.queueWrites_breakEn (s : State) (ws : List (Word × Word)) : (s.queueWrites ws).breakEn = s.breakEn :=
  rfl
@[simp] theorem State.queueWrites_trap (s : State) (ws : List (Word × Word)) : (s.queueWrites ws).trap = s.trap := rfl
@[simp] theorem State.queueWrites_halted (s : State) (ws : List (Word × Word)) : (s.queueWrites ws).halted = s.halted :=
  rfl
@[simp] theorem State.queueWrites_lockCount (s : State) (ws : List (Word × Word)) : (s.queueWrites ws).lockCount = s.lockCount :=
  rfl
@[simp] theorem State.queueWrites_busDeadlocked (s : State) (ws : List (Word × Word)) : (s.queueWrites ws).busDeadlocked = s.busDeadlocked :=
  rfl
@[simp] theorem State.queueWrites_mem (s : State) (ws : List (Word × Word)) : (s.queueWrites ws).mem = s.mem := rfl
@[simp] theorem State.queueWrites_regions (s : State) (ws : List (Word × Word)) : (s.queueWrites ws).regions = s.regions :=
  rfl
@[simp] theorem State.queueWrites_resetAddress (s : State) (ws : List (Word × Word)) : (s.queueWrites ws).resetAddress = s.resetAddress :=
  rfl
@[simp] theorem State.queueWrites_inputs (s : State) (ws : List (Word × Word)) : (s.queueWrites ws).inputs = s.inputs :=
  rfl
@[simp] theorem State.queueWrites_heldWrites (s : State) (ws : List (Word × Word)) : (s.queueWrites ws).heldWrites = s.heldWrites ++ ws :=
  rfl
@[simp] theorem State.queueWrites_busLog (s : State) (ws : List (Word × Word)) : (s.queueWrites ws).busLog = s.busLog :=
  rfl
@[simp] theorem State.queueWrites_stale (s : State) (ws : List (Word × Word)) : (s.queueWrites ws).stale = s.stale :=
  rfl
@[simp] theorem State.queueWrites_wordAddr (s : State) (ws : List (Word × Word)) : (s.queueWrites ws).wordAddr = s.wordAddr :=
  rfl
@[simp] theorem State.queueWrites_control (s : State) (ws : List (Word × Word)) : (s.queueWrites ws).control = s.control :=
  rfl
@[simp] theorem State.queueWrites_draws (s : State) (ws : List (Word × Word)) : (s.queueWrites ws).draws = s.draws :=
  rfl

@[simp] theorem State.queueWrites_cur (s : State) (ws : List (Word × Word)) : (s.queueWrites ws).cur = s.cur := rfl
@[simp] theorem State.queueWrites_nil (s : State) : s.queueWrites [] = s := by simp [State.queueWrites]

/-! ### Releasing a halted CPU -/

@[simp] theorem State.release_sup (s : State) : (s.release).sup = s.sup := rfl
@[simp] theorem State.release_usr (s : State) : (s.release).usr = s.usr := rfl
@[simp] theorem State.release_gie (s : State) : (s.release).gie = s.gie := rfl
@[simp] theorem State.release_sleep (s : State) : (s.release).sleep = s.sleep := rfl
@[simp] theorem State.release_stepBit (s : State) : (s.release).stepBit = s.stepBit := rfl
@[simp] theorem State.release_breakEn (s : State) : (s.release).breakEn = s.breakEn := rfl
@[simp] theorem State.release_trap (s : State) : (s.release).trap = s.trap := rfl
@[simp] theorem State.release_halted (s : State) : (s.release).halted = none := rfl
@[simp] theorem State.release_lockCount (s : State) : (s.release).lockCount = s.lockCount := rfl
@[simp] theorem State.release_busDeadlocked (s : State) : (s.release).busDeadlocked = s.busDeadlocked := rfl
@[simp] theorem State.release_mem (s : State) : (s.release).mem = s.mem := rfl
@[simp] theorem State.release_regions (s : State) : (s.release).regions = s.regions := rfl
@[simp] theorem State.release_resetAddress (s : State) : (s.release).resetAddress = s.resetAddress := rfl
@[simp] theorem State.release_inputs (s : State) : (s.release).inputs = s.inputs := rfl
@[simp] theorem State.release_heldWrites (s : State) : (s.release).heldWrites = s.heldWrites := rfl
@[simp] theorem State.release_busLog (s : State) : (s.release).busLog = s.busLog := rfl
@[simp] theorem State.release_stale (s : State) : (s.release).stale = s.stale := rfl
@[simp] theorem State.release_wordAddr (s : State) : (s.release).wordAddr = s.wordAddr := rfl
@[simp] theorem State.release_control (s : State) : (s.release).control = s.control := rfl
@[simp] theorem State.release_draws (s : State) : (s.release).draws = s.draws := rfl

/-! ### Beginning a word -/

@[simp] theorem State.beginWord_gie (s : State) : (s.beginWord).gie = s.gie := by simp [State.beginWord]
@[simp] theorem State.beginWord_sleep (s : State) : (s.beginWord).sleep = s.sleep := by simp [State.beginWord]
@[simp] theorem State.beginWord_stepBit (s : State) : (s.beginWord).stepBit = s.stepBit := by simp [State.beginWord]
@[simp] theorem State.beginWord_breakEn (s : State) : (s.beginWord).breakEn = s.breakEn := by simp [State.beginWord]
@[simp] theorem State.beginWord_trap (s : State) : (s.beginWord).trap = s.trap := by simp [State.beginWord]
@[simp] theorem State.beginWord_halted (s : State) : (s.beginWord).halted = s.halted := by simp [State.beginWord]
@[simp] theorem State.beginWord_lockCount (s : State) : (s.beginWord).lockCount = s.lockCount :=
  by simp [State.beginWord]
@[simp] theorem State.beginWord_busDeadlocked (s : State) : (s.beginWord).busDeadlocked = s.busDeadlocked :=
  by simp [State.beginWord]
@[simp] theorem State.beginWord_mem (s : State) : (s.beginWord).mem = s.mem := by simp [State.beginWord]
@[simp] theorem State.beginWord_regions (s : State) : (s.beginWord).regions = s.regions := by simp [State.beginWord]
@[simp] theorem State.beginWord_resetAddress (s : State) : (s.beginWord).resetAddress = s.resetAddress :=
  by simp [State.beginWord]
@[simp] theorem State.beginWord_inputs (s : State) : (s.beginWord).inputs = s.inputs := by simp [State.beginWord]
@[simp] theorem State.beginWord_heldWrites (s : State) : (s.beginWord).heldWrites = s.heldWrites :=
  by simp [State.beginWord]
@[simp] theorem State.beginWord_busLog (s : State) : (s.beginWord).busLog = s.busLog := by simp [State.beginWord]
@[simp] theorem State.beginWord_stale (s : State) : (s.beginWord).stale = s.stale := by simp [State.beginWord]
@[simp] theorem State.beginWord_wordAddr (s : State) : (s.beginWord).wordAddr = s.cur.pc := by simp [State.beginWord]
@[simp] theorem State.beginWord_control (s : State) : (s.beginWord).control = false := by simp [State.beginWord]
@[simp] theorem State.beginWord_draws (s : State) : (s.beginWord).draws = s.draws := by simp [State.beginWord]

theorem State.beginWord_cur (s : State) : s.beginWord.cur = { s.cur with pc := s.cur.pc + 1#32 } := s.setPc_cur _

/-! ### Moving the inputs on -/

@[simp] theorem State.popInput_sup (s : State) : (s.popInput).sup = s.sup := rfl
@[simp] theorem State.popInput_usr (s : State) : (s.popInput).usr = s.usr := rfl
@[simp] theorem State.popInput_gie (s : State) : (s.popInput).gie = s.gie := rfl
@[simp] theorem State.popInput_sleep (s : State) : (s.popInput).sleep = s.sleep := rfl
@[simp] theorem State.popInput_stepBit (s : State) : (s.popInput).stepBit = s.stepBit := rfl
@[simp] theorem State.popInput_breakEn (s : State) : (s.popInput).breakEn = s.breakEn := rfl
@[simp] theorem State.popInput_trap (s : State) : (s.popInput).trap = s.trap := rfl
@[simp] theorem State.popInput_halted (s : State) : (s.popInput).halted = s.halted := rfl
@[simp] theorem State.popInput_lockCount (s : State) : (s.popInput).lockCount = s.lockCount := rfl
@[simp] theorem State.popInput_busDeadlocked (s : State) : (s.popInput).busDeadlocked = s.busDeadlocked := rfl
@[simp] theorem State.popInput_mem (s : State) : (s.popInput).mem = s.mem := rfl
@[simp] theorem State.popInput_regions (s : State) : (s.popInput).regions = s.regions := rfl
@[simp] theorem State.popInput_resetAddress (s : State) : (s.popInput).resetAddress = s.resetAddress := rfl
@[simp] theorem State.popInput_inputs (s : State) : (s.popInput).inputs = s.inputs.tail := rfl
@[simp] theorem State.popInput_heldWrites (s : State) : (s.popInput).heldWrites = s.heldWrites := rfl
@[simp] theorem State.popInput_busLog (s : State) : (s.popInput).busLog = s.busLog := rfl
@[simp] theorem State.popInput_stale (s : State) : (s.popInput).stale = s.stale := rfl
@[simp] theorem State.popInput_wordAddr (s : State) : (s.popInput).wordAddr = s.wordAddr := rfl
@[simp] theorem State.popInput_control (s : State) : (s.popInput).control = s.control := rfl
@[simp] theorem State.popInput_draws (s : State) : (s.popInput).draws = s.draws := rfl

/-! ### Register sets -/

theorem RegSet.get_put (rs : RegSet) (i j : RegNum) (v : Word) (hi : i.toNat < 14) :
    (rs.put i v).get j = if i = j then v else rs.get j := by
  simp only [RegSet.put, RegSet.get, Vector.getElem?_setIfInBounds]
  by_cases h : i = j
  · subst h; simp [hi]
  · rw [if_neg fun e => h (BitVec.eq_of_toNat_eq e), if_neg h]

@[simp] theorem RegSet.put_gen (rs : RegSet) (i : RegNum) (v : Word) : (rs.put i v).gen = rs.gen.setIfInBounds i.toNat v := rfl
@[simp] theorem RegSet.put_pc (rs : RegSet) (i : RegNum) (v : Word) : (rs.put i v).pc = rs.pc := rfl
@[simp] theorem RegSet.put_flags (rs : RegSet) (i : RegNum) (v : Word) : (rs.put i v).flags = rs.flags := rfl
@[simp] theorem RegSet.put_ill (rs : RegSet) (i : RegNum) (v : Word) : (rs.put i v).ill = rs.ill := rfl
@[simp] theorem RegSet.put_buserr (rs : RegSet) (i : RegNum) (v : Word) : (rs.put i v).buserr = rs.buserr := rfl
@[simp] theorem RegSet.put_dive (rs : RegSet) (i : RegNum) (v : Word) : (rs.put i v).dive = rs.dive := rfl
@[simp] theorem RegSet.put_fpe (rs : RegSet) (i : RegNum) (v : Word) : (rs.put i v).fpe = rs.fpe := rfl
@[simp] theorem RegSet.put_hi (rs : RegSet) (i : RegNum) (v : Word) : (rs.put i v).hi = rs.hi := rfl

@[simp] theorem RegSet.putCCBits_gen (rs : RegSet) (v : Word) : (rs.putCCBits v).gen = rs.gen := rfl
@[simp] theorem RegSet.putCCBits_pc (rs : RegSet) (v : Word) : (rs.putCCBits v).pc = rs.pc := rfl
@[simp] theorem RegSet.putCCBits_flags (rs : RegSet) (v : Word) : (rs.putCCBits v).flags = flagsOfBits v := rfl
@[simp] theorem RegSet.putCCBits_ill (rs : RegSet) (v : Word) : (rs.putCCBits v).ill = rs.ill := rfl
@[simp] theorem RegSet.putCCBits_buserr (rs : RegSet) (v : Word) : (rs.putCCBits v).buserr = rs.buserr := rfl
@[simp] theorem RegSet.putCCBits_dive (rs : RegSet) (v : Word) : (rs.putCCBits v).dive = rs.dive := rfl
@[simp] theorem RegSet.putCCBits_fpe (rs : RegSet) (v : Word) : (rs.putCCBits v).fpe = rs.fpe := rfl
@[simp] theorem RegSet.putCCBits_hi (rs : RegSet) (v : Word) : (rs.putCCBits v).hi = v.extractLsb' 13 19 := rfl

@[simp] theorem RegSet.clearExc_gen (rs : RegSet) : (rs.clearExc).gen = rs.gen := rfl
@[simp] theorem RegSet.clearExc_pc (rs : RegSet) : (rs.clearExc).pc = rs.pc := rfl
@[simp] theorem RegSet.clearExc_flags (rs : RegSet) : (rs.clearExc).flags = rs.flags := rfl
@[simp] theorem RegSet.clearExc_ill (rs : RegSet) : (rs.clearExc).ill = false := rfl
@[simp] theorem RegSet.clearExc_buserr (rs : RegSet) : (rs.clearExc).buserr = false := rfl
@[simp] theorem RegSet.clearExc_dive (rs : RegSet) : (rs.clearExc).dive = false := rfl
@[simp] theorem RegSet.clearExc_fpe (rs : RegSet) : (rs.clearExc).fpe = false := rfl
@[simp] theorem RegSet.clearExc_hi (rs : RegSet) : (rs.clearExc).hi = rs.hi := rfl

@[simp] theorem RegSet.setExc_gen (rs : RegSet) (e : Exc) : (rs.setExc e).gen = rs.gen := by cases e <;> rfl
@[simp] theorem RegSet.setExc_pc (rs : RegSet) (e : Exc) : (rs.setExc e).pc = rs.pc := by cases e <;> rfl
@[simp] theorem RegSet.setExc_flags (rs : RegSet) (e : Exc) : (rs.setExc e).flags = rs.flags := by cases e <;> rfl
@[simp] theorem RegSet.setExc_hi (rs : RegSet) (e : Exc) : (rs.setExc e).hi = rs.hi := by cases e <;> rfl
@[simp] theorem RegSet.setExc_ill (rs : RegSet) (e : Exc) : (rs.setExc e).ill = (rs.ill || e == .illegalInstruction) := by
  cases e <;> simp [RegSet.setExc]
@[simp] theorem RegSet.setExc_buserr (rs : RegSet) (e : Exc) : (rs.setExc e).buserr = (rs.buserr || e == .busError) := by
  cases e <;> simp [RegSet.setExc]
@[simp] theorem RegSet.setExc_dive (rs : RegSet) (e : Exc) : (rs.setExc e).dive = (rs.dive || e == .divideByZero) := by
  cases e <;> simp [RegSet.setExc]
@[simp] theorem RegSet.setExc_fpe (rs : RegSet) (e : Exc) : (rs.setExc e).fpe = (rs.fpe || e == .floatingPoint) := by
  cases e <;> simp [RegSet.setExc]
@[simp] theorem RegSet.setExc_get (rs : RegSet) (e : Exc) (i : RegNum) : (rs.setExc e).get i = rs.get i := by cases e <;> rfl
@[simp] theorem RegSet.putCCBits_get (rs : RegSet) (v : Word) (i : RegNum) : (rs.putCCBits v).get i = rs.get i := rfl
@[simp] theorem RegSet.clearExc_get (rs : RegSet) (i : RegNum) : rs.clearExc.get i = rs.get i := rfl

end Sys2Proof.Machine
end

