-- ==== Sys2Proof/Laws/Ops.lean ====
section
/-! SUPPORT. One lemma per shared operation that says once everything it can do, and the fields it leaves alone. -/

namespace Sys2Proof.Machine

/-! ### Conditional instructions -/

theorem conditional_true (cnd : Cond) (s : State) (o : Outcome) (h : condHolds s.cur.flags cnd = true) :
    conditional cnd s o = o := by simp [conditional, h]

theorem conditional_false (cnd : Cond) (s : State) (o : Outcome) (h : condHolds s.cur.flags cnd = false) :
    conditional cnd s o = .next s := by simp [conditional, h]

theorem conditional_next (cnd : Cond) (s t : State) :
    conditional cnd s (.next t) = .next (if condHolds s.cur.flags cnd then t else s) := by
  unfold conditional; split <;> rfl

/-- An ALU instruction always answers next: with its result written, or with nothing changed. -/
theorem aluOp_next (r : Word → Word → Word) (cv : Word → Word → CarryOverflow) (dr : RegNum) (f : Form) (s : State) :
    aluOp r cv dr f s = .next (if condHolds s.cur.flags (formCond f)
      then s.writeResult (formCond f) dr (r (s.readReg dr) (s.operandB f)) (cv (s.readReg dr) (s.operandB f)) else s) :=
  conditional_next _ _ _

theorem compareOp_next (r : Word → Word → Word) (cv : Word → Word → CarryOverflow) (dr : RegNum) (f : Form) (s : State) :
    compareOp r cv dr f s = .next (if condHolds s.cur.flags (formCond f)
      then s.writeFlags (r (s.readReg dr) (s.operandB f)) (cv (s.readReg dr) (s.operandB f)) else s) :=
  conditional_next _ _ _

theorem loadOp_next (r : Word → Word → Word) (dr : RegNum) (f : Form) (s : State) :
    loadOp r dr f s = .next (if condHolds s.cur.flags (formCond f)
      then s.writeReg dr (r (s.readReg dr) (s.operandB f)) else s) :=
  conditional_next _ _ _

theorem divideOp_next (q : Word → Word → Word) (dr : RegNum) (f : Form) (s : State) :
    divideOp q dr f s = .next (if condHolds s.cur.flags (formCond f)
      then (if s.operandB f = 0#32 then s.raise .divideByZero
        else s.writeResult (formCond f) dr (q (s.readReg dr) (s.operandB f)) (openCV (s.readReg dr) (s.operandB f)))
      else s) :=
  conditional_next _ _ _

/-! ### Registers -/

theorem State.writeReg_gen (s : State) (i : RegNum) (v : Word) (h : i.toNat < 14) :
    s.writeReg i v = s.setCur (s.cur.put i v) := by
  have h1 : i ≠ pcReg := by rintro rfl; simp at h
  have h2 : i ≠ ccReg := by rintro rfl; simp at h
  simp [State.writeReg, h1, h2]

theorem State.writeReg_pc (s : State) (v : Word) : s.writeReg pcReg v = s.jump v := by simp [State.writeReg]

theorem State.writeReg_cc (s : State) (v : Word) : s.writeReg ccReg v = s.writeCC v := by
  simp [State.writeReg, show ccReg ≠ pcReg by decide]

theorem State.readReg_gen (s : State) (i : RegNum) (h : i.toNat < 14) : s.readReg i = s.cur.get i := by
  have h1 : i ≠ pcReg := by rintro rfl; simp at h
  have h2 : i ≠ ccReg := by rintro rfl; simp at h
  simp [State.readReg, h1, h2]

theorem State.readReg_pc (s : State) : s.readReg pcReg = s.wordAddr + Config.pcReadBias := by simp [State.readReg]

theorem State.readReg_cc (s : State) : s.readReg ccReg = s.readCC := by
  simp [State.readReg, show ccReg ≠ pcReg by decide]

/-- Everything writing a register can do (R156). -/
theorem State.writeReg_cases (s : State) (i : RegNum) (v : Word) :
    (i.toNat < 14 ∧ s.writeReg i v = s.setCur (s.cur.put i v)) ∨
    (i = pcReg ∧ s.writeReg i v = s.jump v) ∨ (i = ccReg ∧ s.writeReg i v = s.writeCC v) := by
  by_cases h1 : i = pcReg
  · exact .inr (.inl ⟨h1, by rw [h1, State.writeReg_pc]⟩)
  by_cases h2 : i = ccReg
  · exact .inr (.inr ⟨h2, by rw [h2, State.writeReg_cc]⟩)
  have : i.toNat < 14 := by
    have := i.isLt
    have h1' : i.toNat ≠ 15 := fun e => h1 (BitVec.eq_of_toNat_eq e)
    have h2' : i.toNat ≠ 14 := fun e => h2 (BitVec.eq_of_toNat_eq e)
    omega
  exact .inl ⟨this, s.writeReg_gen i v this⟩

/-! ### The CC register -/

/-- Everything a supervisor-mode write of the own CC can do (R40). -/
theorem State.writeCCSupervisor_cases (s : State) (v : Word) :
    let t := { s with
      sup := s.sup.putCCBits v, stepBit := v[6], breakEn := v[7], sleep := v[4] }
    (v[5] = true ∧ s.writeCCSupervisor v = t.returnToUser) ∨
    (v[5] = false ∧ v[4] = true ∧ s.writeCCSupervisor v = t.halt .sleepInSupervisor) ∨
    (v[5] = false ∧ v[4] = false ∧ s.writeCCSupervisor v = t) := by
  intro t
  cases h5 : v[5] <;> cases h4 : v[4] <;> simp [State.writeCCSupervisor, h5, h4, t]

/-- Everything a user-mode write of the own CC can do (R41). -/
theorem State.writeCCUser_cases (s : State) (v : Word) :
    (v[5] = true ∧ s.writeCCUser v =
      { s with usr := s.usr.putCCBits v, sleep := v[4], control := s.control || v[4] }) ∨
    (v[5] = false ∧ s.writeCCUser v =
      ({ s with usr := s.usr.putCCBits v, trap := true }).enterSupervisor (s.wordAddr + 1#32)) := by
  cases h5 : v[5] <;> simp [State.writeCCUser, h5]

theorem State.writeCC_user (s : State) (v : Word) (h : s.gie = true) : s.writeCC v = s.writeCCUser v := by
  simp [State.writeCC, h]

theorem State.writeCC_sup (s : State) (v : Word) (h : s.gie = false) : s.writeCC v = s.writeCCSupervisor v := by
  simp [State.writeCC, h]

/-! ### Exceptions -/

/-- Taking an exception in user mode (R361). -/
theorem State.raise_user (s : State) (e : Exc) (h : s.gie = true) :
    s.raise e = ({ s with usr := s.usr.setExc e, draws := s.draws + e.draws }).enterSupervisor (s.excPc e) := by
  simp [State.raise, h]

/-- Taking an exception in supervisor mode (R365). -/
theorem State.raise_sup (s : State) (e : Exc) (h : s.gie = false) :
    s.raise e =
      ({ s with sup := { s.sup.setExc e with pc := s.excPc e }, draws := s.draws + e.draws }).halt (.exception e) := by
  simp [State.raise, h]

/-- Everything BREAK can do (R281). -/
theorem State.breakTrap_cases (s : State) :
    ((s.breakEn = true ∨ s.gie = false) ∧ s.breakTrap = (s.setPc s.wordAddr).halt .brk) ∨
    (s.breakEn = false ∧ s.gie = true ∧ s.breakTrap = s.enterSupervisor s.wordAddr) := by
  cases hb : s.breakEn <;> cases hg : s.gie <;> simp [State.breakTrap, hb, hg]

/-! ### The bus -/

/-- A data access that the environment answers (R75). -/
theorem State.dataAccess_answered (s : State) (k : Access) (a : Word) (e : BusEvent) (o : Outcome)
    (h : s.answers k a = true) : s.dataAccess k a e o = o := by simp [State.dataAccess, h]

/-- A data access that the environment never answers (R85). -/
theorem State.dataAccess_silent (s : State) (k : Access) (a : Word) (e : BusEvent) (o : Outcome)
    (h : s.answers k a = false) : s.dataAccess k a e o = .next (s.present e).deadlockBus := by
  simp [State.dataAccess, h]

/-- Everything a load's read can do (R75). -/
theorem State.memRead_cases (s : State) (a : Word) :
    let t := s.present (s.loadEvent a)
    (s.reply .load a = .memory ∧ s.memRead a = .word (s.peek a) t) ∨
    (s.reply .load a = .peripheral ∧ s.memRead a = .word s.drawWord (t.countDraws 1)) ∨
    (s.reply .load a = .refused ∧ s.memRead a = .busError t) := by
  intro t
  cases h : s.reply .load a <;> simp [State.memRead, h, t]

/-- Everything a store's write can do (R75). -/
theorem State.memWrite_cases (s : State) (a v : Word) :
    let t := s.present (s.storeEvent a v)
    (s.reply .store a = .memory ∧ s.memWrite a v = .done (t.poke a v)) ∨
    (s.reply .store a = .peripheral ∧ s.memWrite a v = .done t) ∨
    (s.reply .store a = .refused ∧ s.memWrite a v = .busError t) := by
  intro t
  cases h : s.reply .store a <;> simp [State.memWrite, h, t]

/-- A fetch from plain memory that nothing has overwritten since reset returns the word in memory (R83). -/
theorem State.fetchWord_memory (s : State) (a : Word) (hm : s.reply .fetch a = .memory) (hs : s.staleAt a = []) :
    s.fetchWord a = .word (s.peek a) s := by
  simp [State.fetchWord, hm, hs]

/-- Everything a fetch can do (R75, R83). -/
theorem State.fetchWord_cases (s : State) (a : Word) :
    (∃ w, (w = s.peek a ∨ w ∈ s.staleAt a) ∧ s.reply .fetch a = .memory ∧
      (s.fetchWord a = .word w s ∨ s.fetchWord a = .word w (s.countDraws 1))) ∨
    (s.reply .fetch a = .peripheral ∧ s.fetchWord a = .word s.drawWord (s.countDraws 1)) ∨
    (s.reply .fetch a = .refused ∧ s.fetchWord a = .busError s) := by
  cases h : s.reply .fetch a
  case memory =>
    refine .inl ?_
    cases hs : s.staleAt a with
    | nil => exact ⟨s.peek a, .inl rfl, rfl, .inl (s.fetchWord_memory a h hs)⟩
    | cons w ws =>
      refine ⟨_, ?_, rfl, .inr (by simp only [State.fetchWord, h, hs, Config.fetchCoherent]; rfl)⟩
      rw [List.getD_eq_getElem _ _ (Nat.mod_lt _ (by simp))]
      have := List.getElem_mem (l := s.peek a :: w :: ws) (n := Config.fetchPick s.draws % (s.peek a :: w :: ws).length)
        (Nat.mod_lt _ (by simp))
      rcases List.mem_cons.1 this with e | e
      · exact .inl e
      · exact .inr e
  all_goals simp [State.fetchWord, h]

/-! ### Other bus masters -/

/-- Another agent's write of a word changes nothing but memory and the words a fetch may still return. -/
theorem State.outsideWrite_eq (s : State) (a v : Word) :
    ∃ m st, s.outsideWrite a v = { s with mem := m, stale := st } ∧ (s.mem.wf → Memory.wf m) := by
  unfold State.outsideWrite
  split
  · exact ⟨_, _, rfl, fun h => s.poke_mem_wf h a v⟩
  · exact ⟨s.mem, s.stale, rfl, id⟩

/-- The same of several writes in order. -/
theorem State.outsideWrites_eq (ws : List (Word × Word)) (s : State) :
    ∃ m st, ws.foldl (fun t w => t.outsideWrite w.1 w.2) s = { s with mem := m, stale := st } ∧ (s.mem.wf → Memory.wf m) := by
  induction ws generalizing s with
  | nil => exact ⟨s.mem, s.stale, rfl, id⟩
  | cons w ws ih =>
    obtain ⟨m, st, e, h⟩ := s.outsideWrite_eq w.1 w.2
    obtain ⟨m', st', e', h'⟩ := ih (s.outsideWrite w.1 w.2)
    refine ⟨m', st', ?_, fun hw => h' ?_⟩
    · rw [List.foldl_cons, e', e]
    · rw [e]; exact h hw

/-- Everything admitting other masters' writes can do (R376): the queue empties into memory, or inside a LOCK span grows. -/
theorem State.admitWrites_cases (s : State) (ws : List (Word × Word)) :
    (s.lockCount = 0 ∧ ∃ m st, s.admitWrites ws = { s with mem := m, stale := st, heldWrites := [] } ∧
      (s.mem.wf → Memory.wf m)) ∨
    (s.lockCount ≠ 0 ∧ s.admitWrites ws = s.queueWrites ws) := by
  unfold State.admitWrites
  split
  · obtain ⟨m, st, e, h⟩ := State.outsideWrites_eq (s.heldWrites ++ ws) { s with heldWrites := [] }
    exact .inl ⟨‹_›, m, st, e, h⟩
  · exact .inr ⟨‹_›, rfl⟩

/-! ### What the operations leave alone -/

@[simp] theorem State.writeCCSupervisor_busDeadlocked (s : State) (v : Word) : (s.writeCCSupervisor v).busDeadlocked = s.busDeadlocked :=
  by unfold State.writeCCSupervisor; dsimp only; split <;> [skip; split] <;> rfl
@[simp] theorem State.writeCCSupervisor_mem (s : State) (v : Word) : (s.writeCCSupervisor v).mem = s.mem :=
  by unfold State.writeCCSupervisor; dsimp only; split <;> [skip; split] <;> rfl
@[simp] theorem State.writeCCSupervisor_regions (s : State) (v : Word) : (s.writeCCSupervisor v).regions = s.regions :=
  by unfold State.writeCCSupervisor; dsimp only; split <;> [skip; split] <;> rfl
@[simp] theorem State.writeCCSupervisor_resetAddress (s : State) (v : Word) : (s.writeCCSupervisor v).resetAddress = s.resetAddress :=
  by unfold State.writeCCSupervisor; dsimp only; split <;> [skip; split] <;> rfl
@[simp] theorem State.writeCCSupervisor_inputs (s : State) (v : Word) : (s.writeCCSupervisor v).inputs = s.inputs :=
  by unfold State.writeCCSupervisor; dsimp only; split <;> [skip; split] <;> rfl
@[simp] theorem State.writeCCSupervisor_heldWrites (s : State) (v : Word) : (s.writeCCSupervisor v).heldWrites = s.heldWrites :=
  by unfold State.writeCCSupervisor; dsimp only; split <;> [skip; split] <;> rfl
@[simp] theorem State.writeCCSupervisor_busLog (s : State) (v : Word) : (s.writeCCSupervisor v).busLog = s.busLog :=
  by unfold State.writeCCSupervisor; dsimp only; split <;> [skip; split] <;> rfl
@[simp] theorem State.writeCCSupervisor_stale (s : State) (v : Word) : (s.writeCCSupervisor v).stale = s.stale :=
  by unfold State.writeCCSupervisor; dsimp only; split <;> [skip; split] <;> rfl
@[simp] theorem State.writeCCSupervisor_wordAddr (s : State) (v : Word) : (s.writeCCSupervisor v).wordAddr = s.wordAddr :=
  by unfold State.writeCCSupervisor; dsimp only; split <;> [skip; split] <;> rfl
@[simp] theorem State.writeCCSupervisor_lockCount (s : State) (v : Word) : (s.writeCCSupervisor v).lockCount = s.lockCount :=
  by unfold State.writeCCSupervisor; dsimp only; split <;> [skip; split] <;> rfl

@[simp] theorem State.writeCCUser_busDeadlocked (s : State) (v : Word) : (s.writeCCUser v).busDeadlocked = s.busDeadlocked :=
  by unfold State.writeCCUser; dsimp only; split <;> rfl
@[simp] theorem State.writeCCUser_mem (s : State) (v : Word) : (s.writeCCUser v).mem = s.mem :=
  by unfold State.writeCCUser; dsimp only; split <;> rfl
@[simp] theorem State.writeCCUser_regions (s : State) (v : Word) : (s.writeCCUser v).regions = s.regions :=
  by unfold State.writeCCUser; dsimp only; split <;> rfl
@[simp] theorem State.writeCCUser_resetAddress (s : State) (v : Word) : (s.writeCCUser v).resetAddress = s.resetAddress :=
  by unfold State.writeCCUser; dsimp only; split <;> rfl
@[simp] theorem State.writeCCUser_inputs (s : State) (v : Word) : (s.writeCCUser v).inputs = s.inputs :=
  by unfold State.writeCCUser; dsimp only; split <;> rfl
@[simp] theorem State.writeCCUser_heldWrites (s : State) (v : Word) : (s.writeCCUser v).heldWrites = s.heldWrites :=
  by unfold State.writeCCUser; dsimp only; split <;> rfl
@[simp] theorem State.writeCCUser_busLog (s : State) (v : Word) : (s.writeCCUser v).busLog = s.busLog :=
  by unfold State.writeCCUser; dsimp only; split <;> rfl
@[simp] theorem State.writeCCUser_stale (s : State) (v : Word) : (s.writeCCUser v).stale = s.stale :=
  by unfold State.writeCCUser; dsimp only; split <;> rfl
@[simp] theorem State.writeCCUser_wordAddr (s : State) (v : Word) : (s.writeCCUser v).wordAddr = s.wordAddr :=
  by unfold State.writeCCUser; dsimp only; split <;> rfl

@[simp] theorem State.writeCC_busDeadlocked (s : State) (v : Word) : (s.writeCC v).busDeadlocked = s.busDeadlocked :=
  by unfold State.writeCC; split <;> simp
@[simp] theorem State.writeCC_mem (s : State) (v : Word) : (s.writeCC v).mem = s.mem :=
  by unfold State.writeCC; split <;> simp
@[simp] theorem State.writeCC_regions (s : State) (v : Word) : (s.writeCC v).regions = s.regions :=
  by unfold State.writeCC; split <;> simp
@[simp] theorem State.writeCC_resetAddress (s : State) (v : Word) : (s.writeCC v).resetAddress = s.resetAddress :=
  by unfold State.writeCC; split <;> simp
@[simp] theorem State.writeCC_inputs (s : State) (v : Word) : (s.writeCC v).inputs = s.inputs :=
  by unfold State.writeCC; split <;> simp
@[simp] theorem State.writeCC_heldWrites (s : State) (v : Word) : (s.writeCC v).heldWrites = s.heldWrites :=
  by unfold State.writeCC; split <;> simp
@[simp] theorem State.writeCC_busLog (s : State) (v : Word) : (s.writeCC v).busLog = s.busLog :=
  by unfold State.writeCC; split <;> simp
@[simp] theorem State.writeCC_stale (s : State) (v : Word) : (s.writeCC v).stale = s.stale :=
  by unfold State.writeCC; split <;> simp
@[simp] theorem State.writeCC_wordAddr (s : State) (v : Word) : (s.writeCC v).wordAddr = s.wordAddr :=
  by unfold State.writeCC; split <;> simp

@[simp] theorem State.writeReg_busDeadlocked (s : State) (i : RegNum) (v : Word) : (s.writeReg i v).busDeadlocked = s.busDeadlocked :=
  by unfold State.writeReg; split <;> [skip; split] <;> simp
@[simp] theorem State.writeReg_mem (s : State) (i : RegNum) (v : Word) : (s.writeReg i v).mem = s.mem :=
  by unfold State.writeReg; split <;> [skip; split] <;> simp
@[simp] theorem State.writeReg_regions (s : State) (i : RegNum) (v : Word) : (s.writeReg i v).regions = s.regions :=
  by unfold State.writeReg; split <;> [skip; split] <;> simp
@[simp] theorem State.writeReg_resetAddress (s : State) (i : RegNum) (v : Word) : (s.writeReg i v).resetAddress = s.resetAddress :=
  by unfold State.writeReg; split <;> [skip; split] <;> simp
@[simp] theorem State.writeReg_inputs (s : State) (i : RegNum) (v : Word) : (s.writeReg i v).inputs = s.inputs :=
  by unfold State.writeReg; split <;> [skip; split] <;> simp
@[simp] theorem State.writeReg_heldWrites (s : State) (i : RegNum) (v : Word) : (s.writeReg i v).heldWrites = s.heldWrites :=
  by unfold State.writeReg; split <;> [skip; split] <;> simp
@[simp] theorem State.writeReg_busLog (s : State) (i : RegNum) (v : Word) : (s.writeReg i v).busLog = s.busLog :=
  by unfold State.writeReg; split <;> [skip; split] <;> simp
@[simp] theorem State.writeReg_stale (s : State) (i : RegNum) (v : Word) : (s.writeReg i v).stale = s.stale :=
  by unfold State.writeReg; split <;> [skip; split] <;> simp
@[simp] theorem State.writeReg_wordAddr (s : State) (i : RegNum) (v : Word) : (s.writeReg i v).wordAddr = s.wordAddr :=
  by unfold State.writeReg; split <;> [skip; split] <;> simp

@[simp] theorem State.writeUser_busDeadlocked (s : State) (i : RegNum) (v : Word) : (s.writeUser i v).busDeadlocked = s.busDeadlocked :=
  by unfold State.writeUser; split <;> [skip; split] <;> rfl
@[simp] theorem State.writeUser_mem (s : State) (i : RegNum) (v : Word) : (s.writeUser i v).mem = s.mem :=
  by unfold State.writeUser; split <;> [skip; split] <;> rfl
@[simp] theorem State.writeUser_regions (s : State) (i : RegNum) (v : Word) : (s.writeUser i v).regions = s.regions :=
  by unfold State.writeUser; split <;> [skip; split] <;> rfl
@[simp] theorem State.writeUser_resetAddress (s : State) (i : RegNum) (v : Word) : (s.writeUser i v).resetAddress = s.resetAddress :=
  by unfold State.writeUser; split <;> [skip; split] <;> rfl
@[simp] theorem State.writeUser_inputs (s : State) (i : RegNum) (v : Word) : (s.writeUser i v).inputs = s.inputs :=
  by unfold State.writeUser; split <;> [skip; split] <;> rfl
@[simp] theorem State.writeUser_heldWrites (s : State) (i : RegNum) (v : Word) : (s.writeUser i v).heldWrites = s.heldWrites :=
  by unfold State.writeUser; split <;> [skip; split] <;> rfl
@[simp] theorem State.writeUser_busLog (s : State) (i : RegNum) (v : Word) : (s.writeUser i v).busLog = s.busLog :=
  by unfold State.writeUser; split <;> [skip; split] <;> rfl
@[simp] theorem State.writeUser_stale (s : State) (i : RegNum) (v : Word) : (s.writeUser i v).stale = s.stale :=
  by unfold State.writeUser; split <;> [skip; split] <;> rfl
@[simp] theorem State.writeUser_wordAddr (s : State) (i : RegNum) (v : Word) : (s.writeUser i v).wordAddr = s.wordAddr :=
  by unfold State.writeUser; split <;> [skip; split] <;> rfl
@[simp] theorem State.writeUser_sup (s : State) (i : RegNum) (v : Word) : (s.writeUser i v).sup = s.sup :=
  by unfold State.writeUser; split <;> [skip; split] <;> rfl
@[simp] theorem State.writeUser_gie (s : State) (i : RegNum) (v : Word) : (s.writeUser i v).gie = s.gie :=
  by unfold State.writeUser; split <;> [skip; split] <;> rfl
@[simp] theorem State.writeUser_sleep (s : State) (i : RegNum) (v : Word) : (s.writeUser i v).sleep = s.sleep :=
  by unfold State.writeUser; split <;> [skip; split] <;> rfl
@[simp] theorem State.writeUser_stepBit (s : State) (i : RegNum) (v : Word) : (s.writeUser i v).stepBit = s.stepBit :=
  by unfold State.writeUser; split <;> [skip; split] <;> rfl
@[simp] theorem State.writeUser_breakEn (s : State) (i : RegNum) (v : Word) : (s.writeUser i v).breakEn = s.breakEn :=
  by unfold State.writeUser; split <;> [skip; split] <;> rfl
@[simp] theorem State.writeUser_trap (s : State) (i : RegNum) (v : Word) : (s.writeUser i v).trap = s.trap :=
  by unfold State.writeUser; split <;> [skip; split] <;> rfl
@[simp] theorem State.writeUser_halted (s : State) (i : RegNum) (v : Word) : (s.writeUser i v).halted = s.halted :=
  by unfold State.writeUser; split <;> [skip; split] <;> rfl
@[simp] theorem State.writeUser_lockCount (s : State) (i : RegNum) (v : Word) : (s.writeUser i v).lockCount = s.lockCount :=
  by unfold State.writeUser; split <;> [skip; split] <;> rfl
@[simp] theorem State.writeUser_control (s : State) (i : RegNum) (v : Word) : (s.writeUser i v).control = s.control :=
  by unfold State.writeUser; split <;> [skip; split] <;> rfl
@[simp] theorem State.writeUser_draws (s : State) (i : RegNum) (v : Word) : (s.writeUser i v).draws = s.draws :=
  by unfold State.writeUser; split <;> [skip; split] <;> rfl

@[simp] theorem State.raise_busDeadlocked (s : State) (e : Exc) : (s.raise e).busDeadlocked = s.busDeadlocked :=
  by unfold State.raise; split <;> rfl
@[simp] theorem State.raise_mem (s : State) (e : Exc) : (s.raise e).mem = s.mem :=
  by unfold State.raise; split <;> rfl
@[simp] theorem State.raise_regions (s : State) (e : Exc) : (s.raise e).regions = s.regions :=
  by unfold State.raise; split <;> rfl
@[simp] theorem State.raise_resetAddress (s : State) (e : Exc) : (s.raise e).resetAddress = s.resetAddress :=
  by unfold State.raise; split <;> rfl
@[simp] theorem State.raise_inputs (s : State) (e : Exc) : (s.raise e).inputs = s.inputs :=
  by unfold State.raise; split <;> rfl
@[simp] theorem State.raise_heldWrites (s : State) (e : Exc) : (s.raise e).heldWrites = s.heldWrites :=
  by unfold State.raise; split <;> rfl
@[simp] theorem State.raise_busLog (s : State) (e : Exc) : (s.raise e).busLog = s.busLog :=
  by unfold State.raise; split <;> rfl
@[simp] theorem State.raise_stale (s : State) (e : Exc) : (s.raise e).stale = s.stale :=
  by unfold State.raise; split <;> rfl
@[simp] theorem State.raise_wordAddr (s : State) (e : Exc) : (s.raise e).wordAddr = s.wordAddr :=
  by unfold State.raise; split <;> rfl
@[simp] theorem State.raise_breakEn (s : State) (e : Exc) : (s.raise e).breakEn = s.breakEn :=
  by unfold State.raise; split <;> rfl

@[simp] theorem State.raiseBusError_busDeadlocked (s : State) : (s.raiseBusError).busDeadlocked = s.busDeadlocked :=
  by simp [State.raiseBusError]
@[simp] theorem State.raiseBusError_mem (s : State) : (s.raiseBusError).mem = s.mem := by simp [State.raiseBusError]
@[simp] theorem State.raiseBusError_regions (s : State) : (s.raiseBusError).regions = s.regions :=
  by simp [State.raiseBusError]
@[simp] theorem State.raiseBusError_resetAddress (s : State) : (s.raiseBusError).resetAddress = s.resetAddress :=
  by simp [State.raiseBusError]
@[simp] theorem State.raiseBusError_inputs (s : State) : (s.raiseBusError).inputs = s.inputs :=
  by simp [State.raiseBusError]
@[simp] theorem State.raiseBusError_heldWrites (s : State) : (s.raiseBusError).heldWrites = s.heldWrites :=
  by simp [State.raiseBusError]
@[simp] theorem State.raiseBusError_busLog (s : State) : (s.raiseBusError).busLog = s.busLog :=
  by simp [State.raiseBusError]
@[simp] theorem State.raiseBusError_stale (s : State) : (s.raiseBusError).stale = s.stale :=
  by simp [State.raiseBusError]
@[simp] theorem State.raiseBusError_wordAddr (s : State) : (s.raiseBusError).wordAddr = s.wordAddr :=
  by simp [State.raiseBusError]
@[simp] theorem State.raiseBusError_breakEn (s : State) : (s.raiseBusError).breakEn = s.breakEn :=
  by simp [State.raiseBusError]

@[simp] theorem State.breakTrap_busDeadlocked (s : State) : (s.breakTrap).busDeadlocked = s.busDeadlocked :=
  by unfold State.breakTrap; split <;> simp
@[simp] theorem State.breakTrap_mem (s : State) : (s.breakTrap).mem = s.mem :=
  by unfold State.breakTrap; split <;> simp
@[simp] theorem State.breakTrap_regions (s : State) : (s.breakTrap).regions = s.regions :=
  by unfold State.breakTrap; split <;> simp
@[simp] theorem State.breakTrap_resetAddress (s : State) : (s.breakTrap).resetAddress = s.resetAddress :=
  by unfold State.breakTrap; split <;> simp
@[simp] theorem State.breakTrap_inputs (s : State) : (s.breakTrap).inputs = s.inputs :=
  by unfold State.breakTrap; split <;> simp
@[simp] theorem State.breakTrap_heldWrites (s : State) : (s.breakTrap).heldWrites = s.heldWrites :=
  by unfold State.breakTrap; split <;> simp
@[simp] theorem State.breakTrap_busLog (s : State) : (s.breakTrap).busLog = s.busLog :=
  by unfold State.breakTrap; split <;> simp
@[simp] theorem State.breakTrap_stale (s : State) : (s.breakTrap).stale = s.stale :=
  by unfold State.breakTrap; split <;> simp
@[simp] theorem State.breakTrap_wordAddr (s : State) : (s.breakTrap).wordAddr = s.wordAddr :=
  by unfold State.breakTrap; split <;> simp
@[simp] theorem State.breakTrap_breakEn (s : State) : (s.breakTrap).breakEn = s.breakEn :=
  by unfold State.breakTrap; split <;> simp

@[simp] theorem State.admitWrites_sup (s : State) (ws : List (Word × Word)) : (s.admitWrites ws).sup = s.sup :=
  by
  rcases s.admitWrites_cases ws with ⟨-, m, st, e, -⟩ | ⟨-, e⟩ <;> simp [e]
@[simp] theorem State.admitWrites_usr (s : State) (ws : List (Word × Word)) : (s.admitWrites ws).usr = s.usr :=
  by
  rcases s.admitWrites_cases ws with ⟨-, m, st, e, -⟩ | ⟨-, e⟩ <;> simp [e]
@[simp] theorem State.admitWrites_gie (s : State) (ws : List (Word × Word)) : (s.admitWrites ws).gie = s.gie :=
  by
  rcases s.admitWrites_cases ws with ⟨-, m, st, e, -⟩ | ⟨-, e⟩ <;> simp [e]
@[simp] theorem State.admitWrites_sleep (s : State) (ws : List (Word × Word)) : (s.admitWrites ws).sleep = s.sleep :=
  by
  rcases s.admitWrites_cases ws with ⟨-, m, st, e, -⟩ | ⟨-, e⟩ <;> simp [e]
@[simp] theorem State.admitWrites_stepBit (s : State) (ws : List (Word × Word)) : (s.admitWrites ws).stepBit = s.stepBit :=
  by
  rcases s.admitWrites_cases ws with ⟨-, m, st, e, -⟩ | ⟨-, e⟩ <;> simp [e]
@[simp] theorem State.admitWrites_breakEn (s : State) (ws : List (Word × Word)) : (s.admitWrites ws).breakEn = s.breakEn :=
  by
  rcases s.admitWrites_cases ws with ⟨-, m, st, e, -⟩ | ⟨-, e⟩ <;> simp [e]
@[simp] theorem State.admitWrites_trap (s : State) (ws : List (Word × Word)) : (s.admitWrites ws).trap = s.trap :=
  by
  rcases s.admitWrites_cases ws with ⟨-, m, st, e, -⟩ | ⟨-, e⟩ <;> simp [e]
@[simp] theorem State.admitWrites_halted (s : State) (ws : List (Word × Word)) : (s.admitWrites ws).halted = s.halted :=
  by
  rcases s.admitWrites_cases ws with ⟨-, m, st, e, -⟩ | ⟨-, e⟩ <;> simp [e]
@[simp] theorem State.admitWrites_lockCount (s : State) (ws : List (Word × Word)) : (s.admitWrites ws).lockCount = s.lockCount :=
  by
  rcases s.admitWrites_cases ws with ⟨-, m, st, e, -⟩ | ⟨-, e⟩ <;> simp [e]
@[simp] theorem State.admitWrites_busDeadlocked (s : State) (ws : List (Word × Word)) : (s.admitWrites ws).busDeadlocked = s.busDeadlocked :=
  by
  rcases s.admitWrites_cases ws with ⟨-, m, st, e, -⟩ | ⟨-, e⟩ <;> simp [e]
@[simp] theorem State.admitWrites_regions (s : State) (ws : List (Word × Word)) : (s.admitWrites ws).regions = s.regions :=
  by
  rcases s.admitWrites_cases ws with ⟨-, m, st, e, -⟩ | ⟨-, e⟩ <;> simp [e]
@[simp] theorem State.admitWrites_resetAddress (s : State) (ws : List (Word × Word)) : (s.admitWrites ws).resetAddress = s.resetAddress :=
  by
  rcases s.admitWrites_cases ws with ⟨-, m, st, e, -⟩ | ⟨-, e⟩ <;> simp [e]
@[simp] theorem State.admitWrites_inputs (s : State) (ws : List (Word × Word)) : (s.admitWrites ws).inputs = s.inputs :=
  by
  rcases s.admitWrites_cases ws with ⟨-, m, st, e, -⟩ | ⟨-, e⟩ <;> simp [e]
@[simp] theorem State.admitWrites_busLog (s : State) (ws : List (Word × Word)) : (s.admitWrites ws).busLog = s.busLog :=
  by
  rcases s.admitWrites_cases ws with ⟨-, m, st, e, -⟩ | ⟨-, e⟩ <;> simp [e]
@[simp] theorem State.admitWrites_wordAddr (s : State) (ws : List (Word × Word)) : (s.admitWrites ws).wordAddr = s.wordAddr :=
  by
  rcases s.admitWrites_cases ws with ⟨-, m, st, e, -⟩ | ⟨-, e⟩ <;> simp [e]
@[simp] theorem State.admitWrites_control (s : State) (ws : List (Word × Word)) : (s.admitWrites ws).control = s.control :=
  by
  rcases s.admitWrites_cases ws with ⟨-, m, st, e, -⟩ | ⟨-, e⟩ <;> simp [e]
@[simp] theorem State.admitWrites_draws (s : State) (ws : List (Word × Word)) : (s.admitWrites ws).draws = s.draws :=
  by
  rcases s.admitWrites_cases ws with ⟨-, m, st, e, -⟩ | ⟨-, e⟩ <;> simp [e]

@[simp] theorem State.writeResult_busDeadlocked (s : State) (cnd : Cond) (dr : RegNum) (r : Word) (cv : CarryOverflow) : (s.writeResult cnd dr r cv).busDeadlocked = s.busDeadlocked :=
  by unfold State.writeResult; dsimp only; split <;> simp
@[simp] theorem State.writeResult_mem (s : State) (cnd : Cond) (dr : RegNum) (r : Word) (cv : CarryOverflow) : (s.writeResult cnd dr r cv).mem = s.mem :=
  by unfold State.writeResult; dsimp only; split <;> simp
@[simp] theorem State.writeResult_regions (s : State) (cnd : Cond) (dr : RegNum) (r : Word) (cv : CarryOverflow) : (s.writeResult cnd dr r cv).regions = s.regions :=
  by unfold State.writeResult; dsimp only; split <;> simp
@[simp] theorem State.writeResult_resetAddress (s : State) (cnd : Cond) (dr : RegNum) (r : Word) (cv : CarryOverflow) : (s.writeResult cnd dr r cv).resetAddress = s.resetAddress :=
  by unfold State.writeResult; dsimp only; split <;> simp
@[simp] theorem State.writeResult_inputs (s : State) (cnd : Cond) (dr : RegNum) (r : Word) (cv : CarryOverflow) : (s.writeResult cnd dr r cv).inputs = s.inputs :=
  by unfold State.writeResult; dsimp only; split <;> simp
@[simp] theorem State.writeResult_heldWrites (s : State) (cnd : Cond) (dr : RegNum) (r : Word) (cv : CarryOverflow) : (s.writeResult cnd dr r cv).heldWrites = s.heldWrites :=
  by unfold State.writeResult; dsimp only; split <;> simp
@[simp] theorem State.writeResult_busLog (s : State) (cnd : Cond) (dr : RegNum) (r : Word) (cv : CarryOverflow) : (s.writeResult cnd dr r cv).busLog = s.busLog :=
  by unfold State.writeResult; dsimp only; split <;> simp
@[simp] theorem State.writeResult_stale (s : State) (cnd : Cond) (dr : RegNum) (r : Word) (cv : CarryOverflow) : (s.writeResult cnd dr r cv).stale = s.stale :=
  by unfold State.writeResult; dsimp only; split <;> simp
@[simp] theorem State.writeResult_wordAddr (s : State) (cnd : Cond) (dr : RegNum) (r : Word) (cv : CarryOverflow) : (s.writeResult cnd dr r cv).wordAddr = s.wordAddr :=
  by unfold State.writeResult; dsimp only; split <;> simp

end Sys2Proof.Machine
end

