-- ==== Sys2Proof/Laws/Exec.lean ====
section
/-! SUPPORT. Everything an instruction can do to the state, said once. -/

namespace Sys2Proof.Machine

/-- The next states an instruction can answer with. -/
inductive Effect (s : State) : State → Prop
  | nothing : Effect s s
  | result (cnd : Cond) (dr : RegNum) (r : Word) (cv : CarryOverflow) : Effect s (s.writeResult cnd dr r cv)
  | compared (r : Word) (cv : CarryOverflow) : Effect s (s.writeFlags r cv)
  | register (dr : RegNum) (v : Word) : Effect s (s.writeReg dr v)
  | userRegister (h : s.gie = false) (dr : RegNum) (v : Word) : Effect s (s.writeUser dr v)
  | loaded (e : BusEvent) (k : Nat) (dr : RegNum) (v : Word) : Effect s (((s.present e).countDraws k).writeReg dr v)
  | stored (e : BusEvent) (a v : Word) : Effect s ((s.present e).poke a v)
  | storedOutside (e : BusEvent) : Effect s (s.present e)
  | busError (e : BusEvent) : Effect s (s.present e).raiseBusError
  | stuck (e : BusEvent) : Effect s (s.present e).deadlockBus
  | illegal : Effect s (s.raise .illegalInstruction)
  | divideByZero : Effect s (s.raise .divideByZero)
  | broke : Effect s s.breakTrap
  | locked : Effect s { s with lockCount := Config.lockSpan }

theorem conditional_effect (cnd : Cond) (s t u : State) (h : conditional cnd s (.next u) = .next t) (hu : Effect s u) :
    Effect s t := by
  rw [conditional_next] at h
  cases h
  split
  · exact hu
  · exact .nothing

theorem aluOp_effect (r : Word → Word → Word) (cv : Word → Word → CarryOverflow) (dr : RegNum) (f : Form) (s t : State)
    (h : aluOp r cv dr f s = .next t) : Effect s t := conditional_effect _ _ _ _ h (.result _ _ _ _)

theorem compareOp_effect (r : Word → Word → Word) (cv : Word → Word → CarryOverflow) (dr : RegNum) (f : Form) (s t : State)
    (h : compareOp r cv dr f s = .next t) : Effect s t := conditional_effect _ _ _ _ h (.compared _ _)

theorem loadOp_effect (r : Word → Word → Word) (dr : RegNum) (f : Form) (s t : State)
    (h : loadOp r dr f s = .next t) : Effect s t := conditional_effect _ _ _ _ h (.register _ _)

theorem divideOp_effect (q : Word → Word → Word) (dr : RegNum) (f : Form) (s t : State)
    (h : divideOp q dr f s = .next t) : Effect s t := by
  refine conditional_effect _ _ _ _ h ?_
  split
  · exact .divideByZero
  · exact .result _ _ _ _

theorem illegalOp_effect (s t : State) (h : illegalOp s = .next t) : Effect s t := by
  cases h
  exact .illegal

/-- Everything an instruction can do. -/
theorem exec_effect (i : Instr) (s t : State) (h : exec i s = .next t) : Effect s t := by
  cases i
  case mov dr f =>
    refine conditional_effect _ _ _ _ h ?_
    split
    · rename_i hc
      refine .userRegister ?_ _ _
      cases hg : s.gie
      · rfl
      · cases f <;> simp [State.movCrosses, State.crosses, hg] at hc
    · exact .register _ _
  case ldi dr f => exact conditional_effect _ _ _ _ h (.register _ _)
  case lod dr f =>
    simp only [exec, execLod] at h
    cases ha : s.answers .load (s.operandB f)
    · rw [State.dataAccess_silent _ _ _ _ _ ha] at h
      exact conditional_effect _ _ _ _ h (.stuck _)
    rw [State.dataAccess_answered _ _ _ _ _ ha] at h
    rcases s.memRead_cases (s.operandB f) with ⟨-, e⟩ | ⟨-, e⟩ | ⟨-, e⟩ <;> rw [e] at h
    · exact conditional_effect _ _ _ _ h (.loaded _ 0 _ _)
    · exact conditional_effect _ _ _ _ h (.loaded _ 1 _ _)
    · exact conditional_effect _ _ _ _ h (.busError _)
  case sto dr f =>
    simp only [exec, execSto] at h
    cases ha : s.answers .store (s.operandB f)
    · rw [State.dataAccess_silent _ _ _ _ _ ha] at h
      exact conditional_effect _ _ _ _ h (.stuck _)
    rw [State.dataAccess_answered _ _ _ _ _ ha] at h
    rcases s.memWrite_cases (s.operandB f) (s.readReg dr) with ⟨-, e⟩ | ⟨-, e⟩ | ⟨-, e⟩ <;> rw [e] at h
    · exact conditional_effect _ _ _ _ h (.stored _ _ _)
    · exact conditional_effect _ _ _ _ h (.storedOutside _)
    · exact conditional_effect _ _ _ _ h (.busError _)
  case noop f =>
    cases h
    exact .nothing
  case brk f =>
    cases f <;> cases h
    exact .broke
  case lock f =>
    cases f <;> cases h
    exact .locked
  case undefinedMovImm dr f => cases h
  case fpadd | fpsub | fpmpy | fpdiv | fpcvt | fpint | illegal1B | illegal1C | illegal1D | reserved1E | reserved1F =>
    exact illegalOp_effect _ _ h
  case cmp | tst => exact compareOp_effect _ _ _ _ _ _ h
  case ldihi | ldilo => exact loadOp_effect _ _ _ _ _ h
  case divu | divs => exact divideOp_effect _ _ _ _ _ h
  all_goals exact aluOp_effect _ _ _ _ _ _ h

/-- No instruction faults. -/
theorem exec_no_fault (i : Instr) (s : State) (r : Fault) : exec i s ≠ .fault r := nomatch r

end Sys2Proof.Machine
end

