-- ==== Sys2Proof/Laws/PerInstr.lean ====
section
/-! SUPPORT. Per instruction: decoding its encoding, at the place its form stands in, gives it back. -/

namespace Sys2Proof.Laws

/-- A well-formed instruction is what decoding finds at its place in its own encoding (R101 to R117). -/
def DecodesBack.Statement (i : Instr) : Prop := i.wellFormed = true → decodeAt i.place.1 (encode i) = i

theorem DecodesBack.sub (dr : RegNum) (f : Form) : DecodesBack.Statement (.sub dr f) := by
  intro _
  obtain ⟨F, hF, h⟩ := decodeAt_form dr (Instr.sub dr f).fields.2.1 f
  exact h.trans (congrArg (Instr.sub dr) hF)

theorem DecodesBack.and (dr : RegNum) (f : Form) : DecodesBack.Statement (.and dr f) := by
  intro _
  obtain ⟨F, hF, h⟩ := decodeAt_form dr (Instr.and dr f).fields.2.1 f
  exact h.trans (congrArg (Instr.and dr) hF)

theorem DecodesBack.add (dr : RegNum) (f : Form) : DecodesBack.Statement (.add dr f) := by
  intro _
  obtain ⟨F, hF, h⟩ := decodeAt_form dr (Instr.add dr f).fields.2.1 f
  exact h.trans (congrArg (Instr.add dr) hF)

theorem DecodesBack.or (dr : RegNum) (f : Form) : DecodesBack.Statement (.or dr f) := by
  intro _
  obtain ⟨F, hF, h⟩ := decodeAt_form dr (Instr.or dr f).fields.2.1 f
  exact h.trans (congrArg (Instr.or dr) hF)

theorem DecodesBack.xor (dr : RegNum) (f : Form) : DecodesBack.Statement (.xor dr f) := by
  intro _
  obtain ⟨F, hF, h⟩ := decodeAt_form dr (Instr.xor dr f).fields.2.1 f
  exact h.trans (congrArg (Instr.xor dr) hF)

theorem DecodesBack.lsr (dr : RegNum) (f : Form) : DecodesBack.Statement (.lsr dr f) := by
  intro _
  obtain ⟨F, hF, h⟩ := decodeAt_form dr (Instr.lsr dr f).fields.2.1 f
  exact h.trans (congrArg (Instr.lsr dr) hF)

theorem DecodesBack.lsl (dr : RegNum) (f : Form) : DecodesBack.Statement (.lsl dr f) := by
  intro _
  obtain ⟨F, hF, h⟩ := decodeAt_form dr (Instr.lsl dr f).fields.2.1 f
  exact h.trans (congrArg (Instr.lsl dr) hF)

theorem DecodesBack.asr (dr : RegNum) (f : Form) : DecodesBack.Statement (.asr dr f) := by
  intro _
  obtain ⟨F, hF, h⟩ := decodeAt_form dr (Instr.asr dr f).fields.2.1 f
  exact h.trans (congrArg (Instr.asr dr) hF)

theorem DecodesBack.ldihi (dr : RegNum) (f : Form) : DecodesBack.Statement (.ldihi dr f) := by
  intro _
  obtain ⟨F, hF, h⟩ := decodeAt_form dr (Instr.ldihi dr f).fields.2.1 f
  exact h.trans (congrArg (Instr.ldihi dr) hF)

theorem DecodesBack.ldilo (dr : RegNum) (f : Form) : DecodesBack.Statement (.ldilo dr f) := by
  intro _
  obtain ⟨F, hF, h⟩ := decodeAt_form dr (Instr.ldilo dr f).fields.2.1 f
  exact h.trans (congrArg (Instr.ldilo dr) hF)

theorem DecodesBack.mpyu (dr : RegNum) (f : Form) : DecodesBack.Statement (.mpyu dr f) := by
  intro _
  obtain ⟨F, hF, h⟩ := decodeAt_form dr (Instr.mpyu dr f).fields.2.1 f
  exact h.trans (congrArg (Instr.mpyu dr) hF)

theorem DecodesBack.mpys (dr : RegNum) (f : Form) : DecodesBack.Statement (.mpys dr f) := by
  intro _
  obtain ⟨F, hF, h⟩ := decodeAt_form dr (Instr.mpys dr f).fields.2.1 f
  exact h.trans (congrArg (Instr.mpys dr) hF)

theorem DecodesBack.brev (dr : RegNum) (f : Form) : DecodesBack.Statement (.brev dr f) := by
  intro _
  obtain ⟨F, hF, h⟩ := decodeAt_form dr (Instr.brev dr f).fields.2.1 f
  exact h.trans (congrArg (Instr.brev dr) hF)

theorem DecodesBack.popc (dr : RegNum) (f : Form) : DecodesBack.Statement (.popc dr f) := by
  intro _
  obtain ⟨F, hF, h⟩ := decodeAt_form dr (Instr.popc dr f).fields.2.1 f
  exact h.trans (congrArg (Instr.popc dr) hF)

theorem DecodesBack.rol (dr : RegNum) (f : Form) : DecodesBack.Statement (.rol dr f) := by
  intro _
  obtain ⟨F, hF, h⟩ := decodeAt_form dr (Instr.rol dr f).fields.2.1 f
  exact h.trans (congrArg (Instr.rol dr) hF)

theorem DecodesBack.cmp (dr : RegNum) (f : Form) : DecodesBack.Statement (.cmp dr f) := by
  intro _
  obtain ⟨F, hF, h⟩ := decodeAt_form dr (Instr.cmp dr f).fields.2.1 f
  exact h.trans (congrArg (Instr.cmp dr) hF)

theorem DecodesBack.tst (dr : RegNum) (f : Form) : DecodesBack.Statement (.tst dr f) := by
  intro _
  obtain ⟨F, hF, h⟩ := decodeAt_form dr (Instr.tst dr f).fields.2.1 f
  exact h.trans (congrArg (Instr.tst dr) hF)

theorem DecodesBack.lod (dr : RegNum) (f : Form) : DecodesBack.Statement (.lod dr f) := by
  intro _
  obtain ⟨F, hF, h⟩ := decodeAt_form dr (Instr.lod dr f).fields.2.1 f
  exact h.trans (congrArg (Instr.lod dr) hF)

theorem DecodesBack.sto (dr : RegNum) (f : Form) : DecodesBack.Statement (.sto dr f) := by
  intro _
  obtain ⟨F, hF, h⟩ := decodeAt_form dr (Instr.sto dr f).fields.2.1 f
  exact h.trans (congrArg (Instr.sto dr) hF)

theorem DecodesBack.divu (dr : RegNum) (f : Form) : DecodesBack.Statement (.divu dr f) := by
  intro _
  obtain ⟨F, hF, h⟩ := decodeAt_form dr (Instr.divu dr f).fields.2.1 f
  exact h.trans (congrArg (Instr.divu dr) hF)

theorem DecodesBack.divs (dr : RegNum) (f : Form) : DecodesBack.Statement (.divs dr f) := by
  intro _
  obtain ⟨F, hF, h⟩ := decodeAt_form dr (Instr.divs dr f).fields.2.1 f
  exact h.trans (congrArg (Instr.divs dr) hF)

theorem DecodesBack.fpadd (dr : RegNum) (f : Form) : DecodesBack.Statement (.fpadd dr f) := by
  intro hw
  obtain ⟨F, hF, h⟩ := decodeAt_form dr (Instr.fpadd dr f).fields.2.1 f
  have hs : RegNum.special dr = false := by simpa [Instr.wellFormed] using hw
  exact h.trans ((if_neg (by simp [hs])).trans (congrArg (Instr.fpadd dr) hF))

theorem DecodesBack.fpsub (dr : RegNum) (f : Form) : DecodesBack.Statement (.fpsub dr f) := by
  intro hw
  obtain ⟨F, hF, h⟩ := decodeAt_form dr (Instr.fpsub dr f).fields.2.1 f
  have hs : RegNum.special dr = false := by simpa [Instr.wellFormed] using hw
  exact h.trans ((if_neg (by simp [hs])).trans (congrArg (Instr.fpsub dr) hF))

theorem DecodesBack.fpmpy (dr : RegNum) (f : Form) : DecodesBack.Statement (.fpmpy dr f) := by
  intro hw
  obtain ⟨F, hF, h⟩ := decodeAt_form dr (Instr.fpmpy dr f).fields.2.1 f
  have hs : RegNum.special dr = false := by simpa [Instr.wellFormed] using hw
  exact h.trans ((if_neg (by simp [hs])).trans (congrArg (Instr.fpmpy dr) hF))

theorem DecodesBack.fpdiv (dr : RegNum) (f : Form) : DecodesBack.Statement (.fpdiv dr f) := by
  intro hw
  obtain ⟨F, hF, h⟩ := decodeAt_form dr (Instr.fpdiv dr f).fields.2.1 f
  have hs : RegNum.special dr = false := by simpa [Instr.wellFormed] using hw
  exact h.trans ((if_neg (by simp [hs])).trans (congrArg (Instr.fpdiv dr) hF))

theorem DecodesBack.fpcvt (dr : RegNum) (f : Form) : DecodesBack.Statement (.fpcvt dr f) := by
  intro hw
  obtain ⟨F, hF, h⟩ := decodeAt_form dr (Instr.fpcvt dr f).fields.2.1 f
  have hs : RegNum.special dr = false := by simpa [Instr.wellFormed] using hw
  exact h.trans ((if_neg (by simp [hs])).trans (congrArg (Instr.fpcvt dr) hF))

theorem DecodesBack.fpint (dr : RegNum) (f : Form) : DecodesBack.Statement (.fpint dr f) := by
  intro hw
  obtain ⟨F, hF, h⟩ := decodeAt_form dr (Instr.fpint dr f).fields.2.1 f
  have hs : RegNum.special dr = false := by simpa [Instr.wellFormed] using hw
  exact h.trans ((if_neg (by simp [hs])).trans (congrArg (Instr.fpint dr) hF))

theorem DecodesBack.mov (dr : RegNum) (f : MovForm) : DecodesBack.Statement (.mov dr f) := by
  intro _
  obtain ⟨F, hF, h⟩ := decodeAt_movForm dr 0x0f#5 f
  exact h.trans hF

theorem DecodesBack.undefinedMovImm (dr : RegNum) (f : MovImmForm) :
    DecodesBack.Statement (.undefinedMovImm dr f) := by
  intro _
  obtain ⟨F, hF, h⟩ := decodeAt_movImmForm dr 0x0f#5 f
  exact h.trans hF

theorem opcodeRow_ldi (f : LdiForm) (dr : RegNum) (F : RowForms) : opcodeRow f.opcode dr F = .ldi dr F.ldi := by
  have h : ∀ b : BitVec 1, opcodeRow (0b1011#4 ++ b) dr F = .ldi dr F.ldi := by
    intro b
    obtain rfl | rfl : b = 0#1 ∨ b = 1#1 := by revert b; decide
    · rfl
    · rfl
  cases f <;> exact h _

theorem DecodesBack.ldi (dr : RegNum) (f : LdiForm) : DecodesBack.Statement (.ldi dr f) := by
  intro _
  obtain ⟨F, hF, h⟩ := decodeAt_ldiForm dr f
  exact h.trans ((opcodeRow_ldi f dr F).trans (congrArg (Instr.ldi dr) hF))

theorem DecodesBack.noop (f : SpecialForm) : DecodesBack.Statement (.noop f) := by
  intro _
  obtain ⟨F, hF, h⟩ := decodeAt_specialForm (Instr.noop f).fields.2.1 f
  exact h.trans ((if_pos f.dr_special).trans (congrArg Instr.noop hF))

theorem DecodesBack.brk (f : SpecialForm) : DecodesBack.Statement (.brk f) := by
  intro _
  obtain ⟨F, hF, h⟩ := decodeAt_specialForm (Instr.brk f).fields.2.1 f
  exact h.trans ((if_pos f.dr_special).trans (congrArg Instr.brk hF))

theorem DecodesBack.lock (f : SpecialForm) : DecodesBack.Statement (.lock f) := by
  intro _
  obtain ⟨F, hF, h⟩ := decodeAt_specialForm (Instr.lock f).fields.2.1 f
  exact h.trans ((if_pos f.dr_special).trans (congrArg Instr.lock hF))

theorem DecodesBack.illegal1B (f : SpecialForm) : DecodesBack.Statement (.illegal1B f) := by
  intro _
  obtain ⟨F, hF, h⟩ := decodeAt_specialForm (Instr.illegal1B f).fields.2.1 f
  exact h.trans ((if_pos f.dr_special).trans (congrArg Instr.illegal1B hF))

theorem DecodesBack.illegal1C (f : SpecialForm) : DecodesBack.Statement (.illegal1C f) := by
  intro _
  obtain ⟨F, hF, h⟩ := decodeAt_specialForm (Instr.illegal1C f).fields.2.1 f
  exact h.trans ((if_pos f.dr_special).trans (congrArg Instr.illegal1C hF))

theorem DecodesBack.illegal1D (f : SpecialForm) : DecodesBack.Statement (.illegal1D f) := by
  intro _
  obtain ⟨F, hF, h⟩ := decodeAt_specialForm (Instr.illegal1D f).fields.2.1 f
  exact h.trans ((if_pos f.dr_special).trans (congrArg Instr.illegal1D hF))

theorem DecodesBack.reserved1E (dr : RegNum) (f : ReservedForm) : DecodesBack.Statement (.reserved1E dr f) := by
  intro _
  obtain ⟨F, hF, h⟩ := decodeAt_reservedForm dr (Instr.reserved1E dr f).fields.2.1 f
  exact h.trans (congrArg (Instr.reserved1E dr) hF)

theorem DecodesBack.reserved1F (dr : RegNum) (f : ReservedForm) : DecodesBack.Statement (.reserved1F dr f) := by
  intro _
  obtain ⟨F, hF, h⟩ := decodeAt_reservedForm dr (Instr.reserved1F dr f).fields.2.1 f
  exact h.trans (congrArg (Instr.reserved1F dr) hF)

end Sys2Proof.Laws
end

