-- ==== Sys2Proof/Tests/Slice0.lean ====
section
/-! SUPPORT. The model's own tests: ill-formed terms that WellFormed refuses, one word of the spec per constructor that
decodes to it, single steps with the values of 95_test_vectors.md, and a witness for the hypotheses of each statement. -/

namespace Sys2Proof.Tests

open Sys2Proof.Machine Sys2Proof.Claims

/-! ### WellFormed: one ill-formed term per check -/

/-- A floating-point instruction cannot name CC (R105): that encoding is NOOP. -/
theorem test_fp_dr_cc_ill_formed : (Instr.fpadd 14#4 (.stdImm .always 0#18)).wellFormed = false := by decide

/-- A floating-point instruction cannot name PC (R105, R284). -/
theorem test_fp_dr_pc_ill_formed : (Instr.fpint 15#4 (.c1Imm 0#3 0#4)).wellFormed = false := by decide

/-- A compact form cannot stand alone in a word (R100). -/
theorem test_half_alone_ill_formed : (CodeWord.single (.add 0#4 (.c1Imm 0#3 1#4))).wellFormed = false := by decide

/-- A standard form cannot be a half (R106). -/
theorem test_std_as_half_ill_formed :
    (CodeWord.pair (.add 0#4 (.stdImm .always 1#18)) (.add 0#4 (.c2Imm 0#3 1#4))).wellFormed = false := by decide

/-- A second-half form cannot be the first half, nor a first-half form the second (R106). -/
theorem test_halves_swapped_ill_formed :
    (CodeWord.pair (.add 0#4 (.c2Imm 0#3 1#4)) (.add 0#4 (.c2Imm 0#3 1#4))).wellFormed = false ∧
    (CodeWord.pair (.add 0#4 (.c1Imm 0#3 1#4)) (.add 0#4 (.c1Imm 0#3 1#4))).wellFormed = false := by decide

/-- The two halves share one VCND field (R107). -/
theorem test_vcnd_differs_ill_formed :
    (CodeWord.pair (.add 0#4 (.c1Imm 1#3 1#4)) (.add 0#4 (.c2Imm 2#3 1#4))).wellFormed = false := by decide

/-- An ill-formed half makes the word ill-formed. -/
theorem test_bad_half_ill_formed :
    (CodeWord.pair (.fpsub 15#4 (.c1Imm 0#3 1#4)) (.add 0#4 (.c2Imm 0#3 1#4))).wellFormed = false ∧
    (CodeWord.pair (.add 0#4 (.c1Imm 0#3 1#4)) (.fpsub 15#4 (.c2Imm 0#3 1#4))).wellFormed = false := by decide

/-! ### Decoding: words the spec prints, or written out from its layouts, for every constructor -/

/-- 95_test_vectors.md 2.1. -/
theorem test_decode_sub : decodeWord 0x00044000#32 = .single (.sub 0#4 (.stdReg .always 1#4 0#14)) := by decide

/-- R181. -/
theorem test_decode_and : decodeWord 0x10400003#32 = .single (.and 2#4 (.stdImm .always 3#18)) := by decide

/-- R182. -/
theorem test_decode_add : decodeWord 0x08B00001#32 = .single (.add 1#4 (.stdImm .c 1#18)) := by decide

/-- 95_test_vectors.md 1.2, RTU. -/
theorem test_decode_or : decodeWord 0x70C00020#32 = .single (.or 14#4 (.stdImm .always 0x20#18)) := by decide

/-- R184. -/
theorem test_decode_xor : decodeWord 0x2103FFFF#32 = .single (.xor 4#4 (.stdImm .always 0x3FFFF#18)) := by decide

/-- R185. -/
theorem test_decode_lsr : decodeWord 0x29400001#32 = .single (.lsr 5#4 (.stdImm .always 1#18)) := by decide

/-- R186. -/
theorem test_decode_lsl : decodeWord 0x31800003#32 = .single (.lsl 6#4 (.stdImm .always 3#18)) := by decide

/-- R187. -/
theorem test_decode_asr : decodeWord 0x39C00004#32 = .single (.asr 7#4 (.stdImm .always 4#18)) := by decide

/-- R220. -/
theorem test_decode_ldihi : decodeWord 0x12308000#32 = .single (.ldihi 2#4 (.stdImm .c 0x8000#18)) := by decide

/-- 95_test_vectors.md 2.4. -/
theorem test_decode_ldilo : decodeWord 0x1A444004#32 = .single (.ldilo 3#4 (.stdReg .always 1#4 4#14)) := by decide

/-- R188. -/
theorem test_decode_mpyu : decodeWord 0x02844000#32 = .single (.mpyu 0#4 (.stdReg .always 1#4 0#14)) := by decide

/-- R189. -/
theorem test_decode_mpys : decodeWord 0x02C3FFFD#32 = .single (.mpys 0#4 (.stdImm .always 0x3FFFD#18)) := by decide

/-- R190. -/
theorem test_decode_brev : decodeWord 0x03044000#32 = .single (.brev 0#4 (.stdReg .always 1#4 0#14)) := by decide

/-- R191. -/
theorem test_decode_popc : decodeWord 0x03400000#32 = .single (.popc 0#4 (.stdImm .always 0#18)) := by decide

/-- R192. -/
theorem test_decode_rol : decodeWord 0x0B83FFE8#32 = .single (.rol 1#4 (.stdImm .always 0x3FFE8#18)) := by decide

/-- 95_test_vectors.md 2.4. -/
theorem test_decode_mov : decodeWord 0x13C46002#32 = .single (.mov 2#4 (.std .always true 1#4 true 2#13)) := by decide

/-- R223. -/
theorem test_decode_mov_plain : decodeWord 0x2BC19FFE#32 = .single (.mov 5#4 (.std .always false 6#4 false 0x1FFE#13)) := by decide

/-- R193. -/
theorem test_decode_cmp : decodeWord 0x0C100047#32 = .single (.cmp 1#4 (.stdImm .z 0x47#18)) := by decide

/-- R194. -/
theorem test_decode_tst : decodeWord 0x74400004#32 = .single (.tst 14#4 (.stdImm .always 4#18)) := by decide

/-- R240. -/
theorem test_decode_lod : decodeWord 0x7C87C000#32 = .single (.lod 15#4 (.stdReg .always 15#4 0#14)) := by decide

/-- R241. -/
theorem test_decode_sto : decodeWord 0x1CC77FFF#32 = .single (.sto 3#4 (.stdReg .always 13#4 0x3FFF#14)) := by decide

/-- R260. -/
theorem test_decode_divu : decodeWord 0x0503FFFF#32 = .single (.divu 0#4 (.stdImm .always 0x3FFFF#18)) := by decide

/-- R261. -/
theorem test_decode_divs : decodeWord 0x05444000#32 = .single (.divs 0#4 (.stdReg .always 1#4 0#14)) := by decide

/-- R222. -/
theorem test_decode_ldi_negative : decodeWord 0x0DC00000#32 = .single (.ldi 1#4 (.std 0x400000#23)) := by decide

/-- R222. -/
theorem test_decode_ldi : decodeWord 0x0DBFFFFF#32 = .single (.ldi 1#4 (.std 0x3FFFFF#23)) := by decide

/-- R270. -/
theorem test_decode_fpadd : decodeWord 0x06044000#32 = .single (.fpadd 0#4 (.stdReg .always 1#4 0#14)) := by decide

/-- R271. -/
theorem test_decode_fpsub : decodeWord 0x06444000#32 = .single (.fpsub 0#4 (.stdReg .always 1#4 0#14)) := by decide

/-- R272. -/
theorem test_decode_fpmpy : decodeWord 0x06844000#32 = .single (.fpmpy 0#4 (.stdReg .always 1#4 0#14)) := by decide

/-- R273. -/
theorem test_decode_fpdiv : decodeWord 0x06C44000#32 = .single (.fpdiv 0#4 (.stdReg .always 1#4 0#14)) := by decide

/-- R274. -/
theorem test_decode_fpcvt : decodeWord 0x07044000#32 = .single (.fpcvt 0#4 (.stdReg .always 1#4 0#14)) := by decide

/-- R275. -/
theorem test_decode_fpint : decodeWord 0x07444000#32 = .single (.fpint 0#4 (.stdReg .always 1#4 0#14)) := by decide

/-- 95_test_vectors.md 2.8. -/
theorem test_decode_noop : decodeWord 0x7E000123#32 = .single (.noop (.std true 0x123#22)) := by decide

/-- R281. -/
theorem test_decode_brk : decodeWord 0x76400000#32 = .single (.brk (.std false 0#22)) := by decide

/-- R282. -/
theorem test_decode_lock : decodeWord 0x76800000#32 = .single (.lock (.std false 0#22)) := by decide

/-- R284. -/
theorem test_decode_illegal1B : decodeWord 0x76C00000#32 = .single (.illegal1B (.std false 0#22)) := by decide

/-- R284. -/
theorem test_decode_illegal1C : decodeWord 0x77000000#32 = .single (.illegal1C (.std false 0#22)) := by decide

/-- R284. -/
theorem test_decode_illegal1D : decodeWord 0x77400000#32 = .single (.illegal1D (.std false 0#22)) := by decide

/-- R283. -/
theorem test_decode_reserved1E : decodeWord 0x07800000#32 = .single (.reserved1E 0#4 (.std 0#22)) := by decide

/-- 95_test_vectors.md 2.7. -/
theorem test_decode_reserved1F : decodeWord 0x7FC00000#32 = .single (.reserved1F 15#4 (.std 0#22)) := by decide

/-- 95_test_vectors.md 1.1. -/
theorem test_decode_compact_alu : decodeWord 0x80884441#32 = .pair (.add 0#4 (.c1Imm 1#3 1#4)) (.add 1#4 (.c2Imm 1#3 1#4)) := by decide

/-- R222. -/
theorem test_decode_compact_ldi : decodeWord 0x8D87CACF#32 = .pair (.ldi 1#4 (.c1 false 0#3 31#5)) (.ldi 2#4 (.c2 false 0#3 15#5)) := by decide

/-- 95_test_vectors.md P4. -/
theorem test_decode_compact_mov : decodeWord 0xA3FC15F1#32 = .pair (.mov 4#4 (.c1 7#3 0#4)) (.mov 5#4 (.c2 7#3 1#4)) := by decide

/-- R244. -/
theorem test_decode_compact_load : decodeWord 0x94877441#32 = .pair (.lod 2#4 (.c1Reg 0#3 13#4)) (.add 13#4 (.c2Imm 0#3 1#4)) := by decide

/-- R244. -/
theorem test_decode_compact_store : decodeWord 0xE8004A7D#32 = .pair (.sub 13#4 (.c1Imm 0#3 1#4)) (.sto 2#4 (.c2Reg 0#3 13#4)) := by decide

/-- 95_test_vectors.md 2.7. -/
theorem test_decode_compact_reserved : decodeWord 0x808043C0#32 = .pair (.add 0#4 (.c1Imm 0#3 1#4)) (.reserved1E 0#4 (.c2 0#3 0#5)) := by decide

/-- R110: OpCode 0x0f in bits 26:22, bit 18 clear. -/
theorem test_decode_compact_mov_imm : decodeWord 0x83C00000#32 = .pair (.undefinedMovImm 0#4 (.c1 0#3 0#4)) (.sub 0#4 (.c2Imm 0#3 0#4)) := by decide

/-- An undefined half and the row it comes from (R115): the table's row C2_UNDEFINED, OpCode 0x0f in bits 9:5. -/
theorem test_decode_table_second_half :
    decodeTableWord 32 0x800001E3 = some (.undefinedMovImm 0#4 (.c2 0#3 3#4)) := by decide

/-! ### Single steps -/

/-- A register set at `pc` with R0, R1 and flags as given, all else zero. -/
def regs (pc r0 r1 : Word) (f : Flags) : RegSet :=
  { RegSet.reset pc with gen := ((Vector.replicate 14 0#32).set 0 r0).set 1 r1, flags := f }

/-- Flags `ZCNV`. -/
def zcnv (z c n v : Bool) : Flags := { z := z, c := c, n := n, v := v }

/-- No flag set. -/
def clear : Flags := zcnv false false false false

/-- Supervisor mode at 0x100. -/
def sup (r0 r1 : Word) (f : Flags) : State := { State.reset with sup := regs 0x100#32 r0 r1 f, wordAddr := 0x100#32 }

/-- User mode at 0x100, `spc` = 0x10. -/
def usr (r0 r1 : Word) (f : Flags) : State :=
  { State.reset with gie := true, sup := RegSet.reset 0x10#32, usr := regs 0x100#32 r0 r1 f, wordAddr := 0x100#32 }

/-- An input with writes of other bus masters at its start and a host action. -/
def inputOf (irq : Bool) (writes : List (Word × Word)) (host : Option HostAction) : Input :=
  { irq := irq, writes := writes, afterFetch := [], between := [], host := host }

/-- What a view shows after one step on a word, if the step answers next. -/
def after {α : Type} (s : State) (w : Nat) (view : State → α) : Option α :=
  match step (s.withFetchWord 32 w) with
  | .next t => some (view t)
  | .fault _ => none
  | .refused _ => none

/-- 95_test_vectors.md 2.1. -/
theorem test_sub_overflow :
    after (sup 0x7FFFFFFF#32 0xFFFFFFFF#32 clear) 0x00044000 (fun t => (t.sup.get 0#4, t.sup.flags, t.sup.pc)) = some (0x80000000#32, zcnv false true true true, 0x101#32) := by decide

/-- 95_test_vectors.md 2.1. -/
theorem test_and_bits :
    after (sup 0xF0F0F0F0#32 0x0FF00FF0#32 clear) 0x00444000 (fun t => (t.sup.get 0#4, t.sup.flags.z, t.sup.flags.n)) = some (0x00F000F0#32, false, false) := by decide

/-- 95_test_vectors.md 2.1. -/
theorem test_or_bits :
    after (sup 0x000000F0#32 0x0000000F#32 clear) 0x00C44000 (fun t => (t.sup.get 0#4, t.sup.flags.z, t.sup.flags.n)) = some (0x000000FF#32, false, false) := by decide

/-- 95_test_vectors.md 2.1. -/
theorem test_xor_bits :
    after (sup 0xFFFF0000#32 0xFF00FF00#32 clear) 0x01044000 (fun t => (t.sup.get 0#4, t.sup.flags.z, t.sup.flags.n)) = some (0x00FFFF00#32, false, false) := by decide

/-- 95_test_vectors.md 2.1. -/
theorem test_lsr_one :
    after (sup 0x80000001#32 0x00000001#32 clear) 0x01444000 (fun t => (t.sup.get 0#4, t.sup.flags.z, t.sup.flags.c, t.sup.flags.n)) = some (0x40000000#32, false, true, false) := by decide

/-- 95_test_vectors.md 2.1. -/
theorem test_lsr_huge :
    after (sup 0xFFFFFFFF#32 0xFFFFFFFF#32 clear) 0x01444000 (fun t => (t.sup.get 0#4, t.sup.flags.z, t.sup.flags.n)) = some (0x00000000#32, true, false) := by decide

/-- 95_test_vectors.md 2.1. -/
theorem test_lsl_carry :
    after (sup 0x00000003#32 0x0000001F#32 clear) 0x01844000 (fun t => (t.sup.get 0#4, t.sup.flags.z, t.sup.flags.c, t.sup.flags.n)) = some (0x80000000#32, false, true, true) := by decide

/-- 95_test_vectors.md 2.1. -/
theorem test_lsl_thirty_two :
    after (sup 0x00000001#32 0x00000020#32 clear) 0x01844000 (fun t => (t.sup.get 0#4, t.sup.flags.z, t.sup.flags.n)) = some (0x00000000#32, true, false) := by decide

/-- 95_test_vectors.md 2.1. -/
theorem test_asr_one :
    after (sup 0x80000000#32 0x00000001#32 clear) 0x01C44000 (fun t => (t.sup.get 0#4, t.sup.flags.z, t.sup.flags.c, t.sup.flags.n)) = some (0xC0000000#32, false, false, true) := by decide

/-- 95_test_vectors.md 2.1. -/
theorem test_asr_fills_sign :
    after (sup 0x80000000#32 0x00000020#32 clear) 0x01C44000 (fun t => (t.sup.get 0#4, t.sup.flags.z, t.sup.flags.n)) = some (0xFFFFFFFF#32, false, true) := by decide

/-- 95_test_vectors.md 2.1. -/
theorem test_mpyu_max :
    after (sup 0x1234FFFF#32 0xABCDFFFF#32 clear) 0x02844000 (fun t => (t.sup.get 0#4, t.sup.flags.z, t.sup.flags.n)) = some (0xFFFE0001#32, false, true) := by decide

/-- 95_test_vectors.md 2.1. -/
theorem test_mpys_mixed :
    after (sup 0x00008000#32 0x00007FFF#32 clear) 0x02C44000 (fun t => (t.sup.get 0#4, t.sup.flags.z, t.sup.flags.n)) = some (0xC0008000#32, false, true) := by decide

/-- 95_test_vectors.md 2.1. -/
theorem test_brev_word :
    after (sup 0x00000007#32 0x12345678#32 clear) 0x03044000 (fun t => (t.sup.get 0#4, t.sup.flags.z, t.sup.flags.n)) = some (0x1E6A2C48#32, false, false) := by decide +kernel

/-- 95_test_vectors.md 2.1. -/
theorem test_popc_word :
    after (sup 0x00000000#32 0xF0F00001#32 clear) 0x03444000 (fun t => (t.sup.get 0#4, t.sup.flags.z, t.sup.flags.n)) = some (0x00000009#32, false, false) := by decide +kernel

/-- 95_test_vectors.md 2.1. -/
theorem test_rol_negative :
    after (sup 0x12345678#32 0xFFFFFFE8#32 clear) 0x03844000 (fun t => (t.sup.get 0#4, t.sup.flags.z, t.sup.flags.n)) = some (0x34567812#32, false, false) := by decide

/-- 95_test_vectors.md 2.1. -/
theorem test_cmp_keeps_register :
    after (sup 0x00000000#32 0x80000000#32 clear) 0x04044000 (fun t => (t.sup.get 0#4, t.sup.flags, t.sup.pc)) = some (0x00000000#32, zcnv false true true true, 0x101#32) := by decide

/-- 95_test_vectors.md 2.1. -/
theorem test_tst_keeps_register :
    after (sup 0x80000000#32 0xFFFFFFFF#32 clear) 0x04444000 (fun t => (t.sup.get 0#4, t.sup.flags.z, t.sup.flags.n)) = some (0x80000000#32, false, true) := by decide

/-- 95_test_vectors.md 2.2. -/
theorem test_sub_low_immediate :
    after (sup 0x0000000A#32 0x00000000#32 clear) 0x00020000 (fun t => (t.sup.get 0#4, t.sup.flags, t.sup.pc)) = some (0x0002000A#32, zcnv false true false false, 0x101#32) := by decide

/-- 95_test_vectors.md 2.2. -/
theorem test_add_low_offset :
    after (sup 0x00000000#32 0x00001000#32 clear) 0x00846000 (fun t => (t.sup.get 0#4, t.sup.flags, t.sup.pc)) = some (0xFFFFF000#32, zcnv false false true false, 0x101#32) := by decide

/-- 95_test_vectors.md 2.6. -/
theorem test_divu :
    after (sup 0x00000064#32 0x00000007#32 clear) 0x05044000 (fun t => (t.sup.get 0#4, t.sup.flags.z, t.sup.flags.n)) = some (0x0000000E#32, false, false) := by decide +kernel

/-- 95_test_vectors.md 2.6. -/
theorem test_divs_toward_zero :
    after (sup 0xFFFFFFF9#32 0x00000002#32 clear) 0x05444000 (fun t => (t.sup.get 0#4, t.sup.flags.z, t.sup.flags.n)) = some (0xFFFFFFFD#32, false, true) := by decide +kernel

/-- 95_test_vectors.md 2.6. -/
theorem test_divs_wraps :
    after (sup 0x80000000#32 0xFFFFFFFF#32 clear) 0x05444000 (fun t => (t.sup.get 0#4, t.sup.flags.z, t.sup.flags.n)) = some (0x80000000#32, false, true) := by decide +kernel

/-- 95_test_vectors.md 2.3. -/
theorem test_conditional_add_keeps_flags :
    after (sup 0xFFFFFFFF#32 1#32 (zcnv false true false false)) 0x00B44000 (fun t => (t.sup.get 0#4, t.sup.flags)) = some (0#32, zcnv false true false false) := by decide

/-- 95_test_vectors.md 2.3. -/
theorem test_conditional_cmp_sets_flags :
    after (sup 1#32 1#32 clear) 0x041C4000 (fun t => (t.sup.get 0#4, t.sup.flags)) = some (1#32, zcnv true false false false) := by decide

/-- 95_test_vectors.md 2.6. -/
theorem test_divide_by_zero_user :
    after (usr 1#32 0#32 clear) 0x05000000 (fun t => (t.usr.get 0#4, t.usr.dive, t.gie, t.cur.pc)) = some (1#32, true, false, 0x10#32) := by decide

/-- 95_test_vectors.md 2.4. -/
theorem test_ldi_bottom :
    after (sup 0#32 0#32 (zcnv false true false true)) 0x0DC00000 (fun t => (t.sup.get 1#4, t.sup.flags)) = some (0xFFC00000#32, zcnv false true false true) := by decide

/-- R220: LDIHI $0x1234,R0 with R0 = 0xDEADBEEF. -/
theorem test_ldihi_keeps_low :
    after (sup 0xDEADBEEF#32 0#32 clear) 0x02001234 (fun t => t.sup.get 0#4) = some 0x1234BEEF#32 := by decide

/-- R221: LDILO $0x5678,R0 with R0 = 0x1234FFFF. -/
theorem test_ldilo_keeps_high :
    after (sup 0x1234FFFF#32 0#32 clear) 0x02405678 (fun t => t.sup.get 0#4) = some 0x12345678#32 := by decide

/-- 95_test_vectors.md 2.4. -/
theorem test_mov_to_user_pc_does_not_jump :
    after (sup 0x200#32 0#32 clear) 0x7BC40000 (fun t => (t.usr.pc, t.sup.pc)) = some (0x200#32, 0x101#32) := by decide

/-- 95_test_vectors.md 2.4. -/
theorem test_mov_user_cc :
    after ({ sup 0#32 0#32 clear with usr := { regs 0#32 0#32 0#32 (zcnv true true false false) with dive := true }, trap := true }) 0x03C3A000 (fun t => t.sup.get 0#4) = some 0xA23#32 := by decide

/-- 95_test_vectors.md 2.5: LOD (PC),PC. -/
theorem test_lod_pc_relative_jumps :
    after ({ sup 0#32 0#32 clear with mem := [(0x101, 0x00345678#32)] }) 0x7C87C000 (fun t => (t.sup.pc, t.busLog)) = some (0x00345678#32, [.load 0x101#32 false]) := by decide

/-- 95_test_vectors.md 2.5. -/
theorem test_lod_bus_error_user :
    after ({ usr 1#32 0x9000#32 clear with regions := [{ base := 0x9000, size := 1, fetch := .refused, load := .refused, store := .refused, silent := [] }] }) 0x04844000 (fun t => (t.usr.get 0#4, t.usr.buserr, t.gie, t.cur.pc)) = some (1#32, true, false, 0x10#32) := by decide

/-- R241: STO R0,(R1). -/
theorem test_sto_writes_memory :
    after (sup 0x42#32 0x2000#32 clear) 0x04C44000 (fun t => (t.peek 0x2000#32, t.sup.get 0#4)) = some (0x42#32, 0x42#32) := by decide

/-- R241: STO.NZ R0,(R1) with Z = 1. -/
theorem test_sto_not_executed :
    after (sup 0x42#32 0x2000#32 (zcnv true false false false)) 0x04DC4000 (fun t => (t.peek 0x2000#32, t.busLog)) = some (0#32, []) := by decide

/-- 95_test_vectors.md 2.8. -/
theorem test_noop :
    after (sup 1#32 2#32 clear) 0x7E000123 (fun t => (t.sup, t.usr)) = some (regs 0x101#32 1#32 2#32 clear, RegSet.reset 0#32) := by decide

/-- R281. -/
theorem test_break_user :
    after (usr 0#32 0#32 clear) 0x76400000 (fun t => (t.gie, t.usr.pc, t.cur.pc, t.halted)) = some (false, 0x100#32, 0x10#32, none) := by decide

/-- R281. -/
theorem test_break_supervisor_halts :
    after (sup 0#32 0#32 clear) 0x76400000 (fun t => (t.halted, t.sup.pc)) = some (some .brk, 0x100#32) := by decide

/-- 95_test_vectors.md 2.8. -/
theorem test_lock_opens_span :
    after (usr 0#32 0#32 clear) 0x76800000 (fun t => (t.lockCount, t.usr.pc)) = some (2, 0x101#32) := by decide

/-- 95_test_vectors.md 2.7. -/
theorem test_fpadd_is_illegal :
    after (usr 1#32 0#32 clear) 0x06044000 (fun t => (t.usr.get 0#4, t.usr.ill, t.gie, t.usr.pc, t.cur.pc)) = some (1#32, true, false, 0x100#32, 0x10#32) := by decide

/-- 95_test_vectors.md 2.7. -/
theorem test_fpsub_is_illegal :
    after (usr 1#32 0#32 clear) 0x06444000 (fun t => (t.usr.get 0#4, t.usr.ill, t.gie, t.usr.pc, t.cur.pc)) = some (1#32, true, false, 0x100#32, 0x10#32) := by decide

/-- 95_test_vectors.md 2.7. -/
theorem test_fpmpy_is_illegal :
    after (usr 1#32 0#32 clear) 0x06844000 (fun t => (t.usr.get 0#4, t.usr.ill, t.gie, t.usr.pc, t.cur.pc)) = some (1#32, true, false, 0x100#32, 0x10#32) := by decide

/-- 95_test_vectors.md 2.7. -/
theorem test_fpdiv_is_illegal :
    after (usr 1#32 0#32 clear) 0x06C44000 (fun t => (t.usr.get 0#4, t.usr.ill, t.gie, t.usr.pc, t.cur.pc)) = some (1#32, true, false, 0x100#32, 0x10#32) := by decide

/-- 95_test_vectors.md 2.7. -/
theorem test_fpcvt_is_illegal :
    after (usr 1#32 0#32 clear) 0x07044000 (fun t => (t.usr.get 0#4, t.usr.ill, t.gie, t.usr.pc, t.cur.pc)) = some (1#32, true, false, 0x100#32, 0x10#32) := by decide

/-- 95_test_vectors.md 2.7. -/
theorem test_fpint_is_illegal :
    after (usr 1#32 0#32 clear) 0x07444000 (fun t => (t.usr.get 0#4, t.usr.ill, t.gie, t.usr.pc, t.cur.pc)) = some (1#32, true, false, 0x100#32, 0x10#32) := by decide

/-- 95_test_vectors.md 2.7. -/
theorem test_illegal1B_is_illegal :
    after (usr 1#32 0#32 clear) 0x76C00000 (fun t => (t.usr.get 0#4, t.usr.ill, t.gie, t.usr.pc, t.cur.pc)) = some (1#32, true, false, 0x100#32, 0x10#32) := by decide

/-- 95_test_vectors.md 2.7. -/
theorem test_illegal1C_is_illegal :
    after (usr 1#32 0#32 clear) 0x77000000 (fun t => (t.usr.get 0#4, t.usr.ill, t.gie, t.usr.pc, t.cur.pc)) = some (1#32, true, false, 0x100#32, 0x10#32) := by decide

/-- 95_test_vectors.md 2.7. -/
theorem test_illegal1D_is_illegal :
    after (usr 1#32 0#32 clear) 0x77400000 (fun t => (t.usr.get 0#4, t.usr.ill, t.gie, t.usr.pc, t.cur.pc)) = some (1#32, true, false, 0x100#32, 0x10#32) := by decide

/-- 95_test_vectors.md 2.7. -/
theorem test_reserved1E_is_illegal :
    after (usr 1#32 0#32 clear) 0x07800000 (fun t => (t.usr.get 0#4, t.usr.ill, t.gie, t.usr.pc, t.cur.pc)) = some (1#32, true, false, 0x100#32, 0x10#32) := by decide

/-- 95_test_vectors.md 2.7. -/
theorem test_reserved1F_is_illegal :
    after (usr 1#32 0#32 clear) 0x07C00000 (fun t => (t.usr.get 0#4, t.usr.ill, t.gie, t.usr.pc, t.cur.pc)) = some (1#32, true, false, 0x100#32, 0x10#32) := by decide

/-- 95_test_vectors.md 2.7. -/
theorem test_illegal_half_stops_whole_word :
    after (usr 1#32 0#32 clear) 0x808043C0 (fun t => (t.usr.get 0#4, t.usr.ill)) = some (1#32, true) := by decide

/-- 95_test_vectors.md 1.1. -/
theorem test_compact_second_half_sees_first :
    after (sup 0#32 0#32 (zcnv false false true false)) 0x80884441 (fun t => (t.sup.get 0#4, t.sup.get 1#4, t.sup.flags)) = some (1#32, 1#32, clear) := by decide

/-- 95_test_vectors.md 1.2, IRET. -/
theorem test_rtu_enters_user_mode :
    after ({ sup 0#32 0#32 clear with usr := { RegSet.reset 0x4000#32 with ill := true }, trap := true }) 0x70C00020 (fun t => (t.gie, t.sup.pc, t.usr.ill, t.trap, t.cur.pc)) = some (true, 0x101#32, false, false, 0x4000#32) := by decide

/-- 95_test_vectors.md 1.2, INT. -/
theorem test_int_traps :
    after (usr 0#32 0#32 (zcnv false true false false)) 0x75800000 (fun t => (t.usr.flags, t.trap, t.gie, t.usr.pc)) = some (clear, true, false, 0x101#32) := by decide

/-- 95_test_vectors.md 2.9: two halves, then StepReturn. -/
theorem test_step_returns_after_one_word :
    after ({ usr 0#32 0#32 clear with stepBit := true }) 0x80804041 (fun t => (t.usr.get 0#4, t.usr.pc, t.gie, t.stepBit)) = some (2#32, 0x101#32, false, false) := by decide

/-- 95_test_vectors.md 2.9: an interrupt at the first step is taken before the word. -/
theorem test_interrupt_taken :
    after { usr 0#32 0#32 clear with inputs := [inputOf true [] none] } 0x00800001
      (fun t => (t.gie, t.usr.pc, t.usr.get 0#4)) = some (false, 0x100#32, 0#32) := by decide

/-- R282: a word other than LOD or STO inside a LOCK span is refused. -/
theorem test_lock_span_refused :
    step (State.withFetchWord { usr 0#32 0#32 clear with lockCount := 2 } 32 0x76000000) = .refused .lockSpan := by rfl

/-- R115 item 1. -/
theorem test_undefined_mov_imm_refused :
    step ((sup 0#32 0#32 clear).withFetchWord 32 0x83C00000) = .refused .compactMovImmediate := by rfl

/-! ### Witnesses: states and operands that meet the hypotheses of each statement -/

theorem witness_DecodeOfEncodeIsIdentity :
    (CodeWord.pair (.lod 2#4 (.c1Reg 7#3 13#4)) (.fpint 13#4 (.c2Imm 7#3 15#4))).wellFormed = true := by decide

theorem witness_StandardWordsHoldTheirFields_lowest :
    bitsOf 0x00020000#32 31 1 = 0 ∧ operandBInstr (bitsOf 0x00020000#32 22 5) = some .sub := ⟨rfl, rfl⟩

theorem witness_StandardWordsHoldTheirFields_highest :
    bitsOf 0x7D7FFFFF#32 31 1 = 0 ∧ operandBInstr (bitsOf 0x7D7FFFFF#32 22 5) = some .divs := ⟨rfl, rfl⟩

theorem witness_CompactWordsHoldTwoHalves :
    bitsOf 0xE8004A7D#32 31 1 = 1 ∧ operandBInstr (bitsOf 0xE8004A7D#32 22 5) = some .sub ∧
      operandBInstr (bitsOf 0xE8004A7D#32 5 5) = some .sto := ⟨rfl, rfl, rfl⟩

theorem witness_CompactWordsHoldTwoHalves_ldi_and_mov :
    bitsOf 0x8DC7C1F1#32 31 1 = 1 ∧ bitsOf 0x8DC7C1F1#32 23 4 = 0xb ∧ bitsOf 0x8DC7C1F1#32 5 5 = 0xf ∧ bitsOf 0x8DC7C1F1#32 4 1 = 1 ∧
    bitsOf 0x83C002FF#32 22 5 = 0xf ∧ bitsOf 0x83C002FF#32 18 1 = 0 ∧ bitsOf 0x83C002FF#32 6 4 = 0xb := ⟨rfl, rfl, rfl, rfl, rfl, rfl, rfl⟩

theorem witness_CompactWordsHoldTwoHalves_specials :
    (bitsOf 0xF6003F3F#32 28 3 = 7 ∧ bitsOf 0xF6003F3F#32 22 5 = 0x18 ∧ bitsOf 0xF6003F3F#32 11 3 = 7 ∧ bitsOf 0xF6003F3F#32 5 5 = 0x19) ∧
    (bitsOf 0xFE7FFF40#32 22 5 = 0x19 ∧ bitsOf 0xFE7FFF40#32 5 5 = 0x1a) ∧ (bitsOf 0xFE803B00#32 22 5 = 0x1a ∧ bitsOf 0xFE803B00#32 5 5 = 0x18) := ⟨⟨rfl, rfl, rfl, rfl⟩, ⟨rfl, rfl⟩, rfl, rfl⟩

theorem witness_MoveLoadImmediateAndSpecialWords :
    (bitsOf 0x7BC3C002#32 31 1 = 0 ∧ bitsOf 0x7BC3C002#32 22 5 = 0x0f) ∧
    (bitsOf 0x0DFFFFFF#32 31 1 = 0 ∧ bitsOf 0x0DFFFFFF#32 23 4 = 0xb) ∧
    (bitsOf 0x05800005#32 31 1 = 0 ∧ bitsOf 0x05800005#32 23 4 = 0xb) ∧
    (bitsOf 0x7E000123#32 31 1 = 0 ∧ bitsOf 0x7E000123#32 28 3 = 7 ∧ bitsOf 0x7E000123#32 22 5 = 0x18) ∧
    (bitsOf 0x76400000#32 31 1 = 0 ∧ bitsOf 0x76400000#32 28 3 = 7 ∧ bitsOf 0x76400000#32 22 5 = 0x19) ∧
    (bitsOf 0x7EBFFFFF#32 31 1 = 0 ∧ bitsOf 0x7EBFFFFF#32 28 3 = 7 ∧ bitsOf 0x7EBFFFFF#32 22 5 = 0x1a) := by decide

theorem witness_IllegalWordsByTheirBits :
    bitsOf 0x07800000#32 31 1 = 0 ∧ bitsOf 0x808043C0#32 31 1 = 1 := by decide

theorem witness_GeneralRegistersArePlainStorage :
    (0#4).toNat < 14 ∧ (13#4).toNat < 14 ∧ (13#4) ≠ 0#4 ∧ (usr 0#32 0#32 clear).gie = true ∧ (sup 0#32 0#32 clear).gie = false := by decide

theorem witness_ProgramCountersAndUserCcAsOperands :
    (usr 0#32 0#32 clear).gie = true ∧ (sup 0#32 0#32 clear).gie = false := by decide

theorem witness_WritesOfTheOwnCc :
    ((usr 0#32 0#32 clear).gie = true ∧ (0x20#32)[5] = true) ∧ ((sup 0#32 0#32 clear).gie = false ∧ (0x60#32)[5] = true) ∧
    ((sup 0#32 0#32 clear).gie = false ∧ (0x10#32)[5] = false) := by decide

theorem witness_UserWriteOfCcClearingGieTraps :
    (usr 0#32 0#32 clear).gie = true ∧ (0xFFFFFFDF#32)[5] = false := by decide

theorem witness_FalseConditionHasNoEffect :
    condition (.mov 1#4 (.c2 6#3 2#4)) = some .z ∧ condHolds (sup 0#32 0#32 clear).cur.flags .z = false := by decide

theorem witness_SubtractAndAdd :
    condHolds (sup 5#32 7#32 clear).cur.flags (formCond (.stdReg .nz 1#4 0x3FFF#14)) = true ∧
    condHolds (usr 5#32 7#32 clear).cur.flags (formCond (.c2Imm 3#3 8#4)) = true := by decide

theorem witness_BitwiseAndOrXor :
    condHolds (sup 5#32 7#32 clear).cur.flags (formCond (.stdReg .nz 1#4 0x3FFF#14)) = true ∧
    condHolds (usr 5#32 7#32 clear).cur.flags (formCond (.c2Imm 3#3 8#4)) = true := by decide

theorem witness_ShiftsByTheWholeOperand :
    condHolds (sup 5#32 7#32 clear).cur.flags (formCond (.stdReg .nz 1#4 0x3FFF#14)) = true ∧
    condHolds (usr 5#32 7#32 clear).cur.flags (formCond (.c2Imm 3#3 8#4)) = true := by decide

theorem witness_MultipliesOfTheLowHalves :
    condHolds (sup 5#32 7#32 clear).cur.flags (formCond (.stdReg .nz 1#4 0x3FFF#14)) = true ∧
    condHolds (usr 5#32 7#32 clear).cur.flags (formCond (.c2Imm 3#3 8#4)) = true := by decide

theorem witness_ReverseCountAndRotate :
    condHolds (sup 5#32 7#32 clear).cur.flags (formCond (.stdReg .nz 1#4 0x3FFF#14)) = true ∧
    condHolds (usr 5#32 7#32 clear).cur.flags (formCond (.c2Imm 3#3 8#4)) = true := by decide

theorem witness_CompareAndTestSetOnlyFlags :
    condHolds (sup 5#32 7#32 clear).cur.flags (formCond (.stdReg .nz 1#4 0x3FFF#14)) = true ∧
    condHolds (usr 5#32 7#32 clear).cur.flags (formCond (.c2Imm 3#3 8#4)) = true := by decide

theorem witness_LoadHalves :
    condHolds (sup 5#32 7#32 clear).cur.flags (formCond (.stdReg .nz 1#4 0x3FFF#14)) = true ∧
    condHolds (usr 5#32 7#32 clear).cur.flags (formCond (.c2Imm 3#3 8#4)) = true := by decide

theorem witness_LoadImmediate :
    condHolds (sup 0#32 0#32 clear).cur.flags (condFirst 3#3) = true ∧
    condHolds (sup 0#32 0#32 clear).cur.flags (condSecond 1#3) = true := by decide

theorem witness_MoveBetweenRegisters :
    (condHolds (usr 0#32 0#32 clear).cur.flags .ge = true ∧ (usr 0#32 0#32 clear).gie = true) ∧
    (condHolds (sup 0#32 0#32 clear).cur.flags .nz = true ∧ (sup 0#32 0#32 clear).gie = false) ∧
    condHolds (sup 0#32 0#32 clear).cur.flags (condFirst 7#3) = true ∧ condHolds (sup 0#32 0#32 clear).cur.flags (condSecond 7#3) = true := by decide

/-- A platform with a peripheral at 0x9000, a word that gives a bus error at 0x9001 and one that never answers at
0x9002. -/
def platform : List Region :=
  [{ base := 0x9000, size := 1, fetch := .peripheral, load := .peripheral, store := .peripheral, silent := [] },
   { base := 0x9001, size := 1, fetch := .refused, load := .refused, store := .refused, silent := [] },
   { base := 0x9002, size := 1, fetch := .memory, load := .memory, store := .memory, silent := [.fetch, .load, .store] }]

theorem witness_LoadReadsOneWord :
    (condHolds ({ sup 5#32 0x8FFF#32 clear with regions := platform } : State).cur.flags (formCond (.stdReg .always 1#4 0#14)) = true ∧ ({ sup 5#32 0x8FFF#32 clear with regions := platform } : State).answers .load (({ sup 5#32 0x8FFF#32 clear with regions := platform } : State).operandB (.stdReg .always 1#4 0#14)) = true ∧
      ({ sup 5#32 0x8FFF#32 clear with regions := platform } : State).reply .load (({ sup 5#32 0x8FFF#32 clear with regions := platform } : State).operandB (.stdReg .always 1#4 0#14)) = .memory) ∧
    (condHolds ({ usr 5#32 0x9000#32 clear with regions := platform } : State).cur.flags (formCond (.stdReg .always 1#4 0#14)) = true ∧ ({ usr 5#32 0x9000#32 clear with regions := platform } : State).answers .load (({ usr 5#32 0x9000#32 clear with regions := platform } : State).operandB (.stdReg .always 1#4 0#14)) = true ∧
      ({ usr 5#32 0x9000#32 clear with regions := platform } : State).reply .load (({ usr 5#32 0x9000#32 clear with regions := platform } : State).operandB (.stdReg .always 1#4 0#14)) = .peripheral) := by decide

theorem witness_StoreWritesOneWord :
    (({ sup 5#32 0xFFFFFFFF#32 clear with regions := platform } : State).mem.wf ∧ condHolds ({ sup 5#32 0xFFFFFFFF#32 clear with regions := platform } : State).cur.flags (formCond (.stdReg .always 1#4 0#14)) = true ∧
      ({ sup 5#32 0xFFFFFFFF#32 clear with regions := platform } : State).answers .store (({ sup 5#32 0xFFFFFFFF#32 clear with regions := platform } : State).operandB (.stdReg .always 1#4 0#14)) = true ∧
      ({ sup 5#32 0xFFFFFFFF#32 clear with regions := platform } : State).reply .store (({ sup 5#32 0xFFFFFFFF#32 clear with regions := platform } : State).operandB (.stdReg .always 1#4 0#14)) = .memory) ∧
    (({ usr 5#32 0x9000#32 clear with regions := platform } : State).mem.wf ∧ condHolds ({ usr 5#32 0x9000#32 clear with regions := platform } : State).cur.flags (formCond (.stdReg .always 1#4 0#14)) = true ∧
      ({ usr 5#32 0x9000#32 clear with regions := platform } : State).answers .store (({ usr 5#32 0x9000#32 clear with regions := platform } : State).operandB (.stdReg .always 1#4 0#14)) = true ∧
      ({ usr 5#32 0x9000#32 clear with regions := platform } : State).reply .store (({ usr 5#32 0x9000#32 clear with regions := platform } : State).operandB (.stdReg .always 1#4 0#14)) = .peripheral) := by decide

theorem witness_LoadReadsBackOwnStore :
    (sup 5#32 0x2000#32 clear).mem.wf ∧ (13#4).toNat < 14 ∧
    (sup 5#32 0x2000#32 clear).reply .store ((sup 5#32 0x2000#32 clear).readReg 1#4) = .memory ∧
    (sup 5#32 0x2000#32 clear).reply .load ((sup 5#32 0x2000#32 clear).readReg 1#4) = .memory ∧
    (sup 5#32 0x2000#32 clear).answers .store ((sup 5#32 0x2000#32 clear).readReg 1#4) = true ∧
    (sup 5#32 0x2000#32 clear).answers .load ((sup 5#32 0x2000#32 clear).readReg 1#4) = true ∧
    ∃ t, exec (.sto 0#4 (.stdReg .always 1#4 0#14)) (sup 5#32 0x2000#32 clear) = .next t := ⟨by decide, by decide, rfl, rfl, rfl, rfl, _, rfl⟩

theorem witness_NoopDoesNothing :
    0x7E000123#32 &&& 0xF7C00000#32 = (0x76000000#32 : Word) := by decide

theorem witness_UnsignedDivide_by_zero :
    condHolds (usr 5#32 0#32 clear).cur.flags (formCond (.stdReg .always 1#4 0#14)) = true ∧ (usr 5#32 0#32 clear).operandB (.stdReg .always 1#4 0#14) = 0#32 := by decide

theorem witness_UnsignedDivide :
    condHolds (sup 5#32 7#32 clear).cur.flags (formCond (.stdReg .always 1#4 0#14)) = true ∧ (sup 5#32 7#32 clear).operandB (.stdReg .always 1#4 0#14) ≠ 0#32 := by decide

theorem witness_SignedDivide :
    condHolds (sup 5#32 7#32 clear).cur.flags (formCond (.stdReg .always 1#4 0#14)) = true ∧ (sup 5#32 7#32 clear).operandB (.stdReg .always 1#4 0#14) ≠ 0#32 := by decide

theorem witness_DivideByZeroIsTaken :
    (condHolds (usr 5#32 0#32 clear).cur.flags (formCond (.stdReg .always 1#4 0#14)) = true ∧ (usr 5#32 0#32 clear).operandB (.stdReg .always 1#4 0#14) = 0#32 ∧
      (usr 5#32 0#32 clear).gie = true) ∧
    (condHolds (sup 5#32 0#32 clear).cur.flags (formCond (.stdReg .always 1#4 0#14)) = true ∧ (sup 5#32 0#32 clear).operandB (.stdReg .always 1#4 0#14) = 0#32 ∧
      (sup 5#32 0#32 clear).gie = false) := by decide

theorem witness_BreakStopsAtItself :
    (sup 0#32 0#32 clear).gie = false ∧ ({ usr 0#32 0#32 clear with breakEn := true } : State).breakEn = true ∧
    ((usr 0#32 0#32 clear).breakEn = false ∧ (usr 0#32 0#32 clear).gie = true) := by decide

theorem witness_IllegalEncodingsAreTaken :
    (∃ dr f, Instr.fpint 13#4 (.stdImm .lt 0#18) = .fpint dr f) ∧ (∃ f, Instr.illegal1B (.std true 0#22) = .illegal1B f) ∧
    (∃ dr f, Instr.reserved1F 15#4 (.c2 7#3 0#5) = .reserved1F dr f) ∧
    (usr 0#32 0#32 clear).gie = true ∧ (sup 0#32 0#32 clear).gie = false := ⟨⟨_, _, rfl⟩, ⟨_, rfl⟩, ⟨_, _, rfl⟩, rfl, rfl⟩

theorem witness_OnlyStoresChangeMemory :
    (∀ dr f, Instr.noop (.std false 0#22) ≠ .sto dr f) ∧
    exec (.noop (.std false 0#22)) (sup 0#32 0#32 clear) = .next (sup 0#32 0#32 clear) := ⟨fun _ _ => nofun, rfl⟩

theorem witness_OtherRegistersAreUnchanged :
    (13#4).toNat < 14 ∧ (∃ t, exec (.mov 3#4 (.std .always true 1#4 false 0#13)) (sup 0#32 0#32 clear) = .next t) ∧
    destination (.mov 3#4 (.std .always true 1#4 false 0#13)) ≠ some 13#4 ∧
    userDestination (.mov 3#4 (.std .always true 1#4 false 0#13)) ≠ some 13#4 := ⟨by decide, ⟨_, rfl⟩, by decide, by decide⟩

theorem witness_FlagsChangeOnlyWhereNamed :
    (∃ t, exec (.add 0#4 (.stdImm .nz 1#18)) (usr 0#32 0#32 clear) = .next t) ∧
    destination (.add 0#4 (.stdImm .nz 1#18)) ≠ some ccReg ∧ writesFlags (.add 0#4 (.stdImm .nz 1#18)) = false := ⟨⟨_, rfl⟩, by decide, by decide⟩

theorem witness_PlainInstructionsKeepTheMode :
    plain (.ldi 15#4 (.std 0#23)) = true ∧ destination (.ldi 15#4 (.std 0#23)) ≠ some ccReg := by decide

theorem witness_OnlySupervisorMoveCrossesSets :
    ((usr 0#32 0#32 clear).gie = true ∧ (usr 0#32 0#32 clear).input.host = none) ∧
    ((sup 0#32 0#32 clear).gie = false ∧ ∀ dr f, Instr.brk (.std true 0#22) ≠ .mov dr f) ∧
    ((sup 0#32 0#32 clear).gie = false ∧ (0#4).toNat < 14 ∧ (13#4).toNat < 14) := ⟨⟨rfl, rfl⟩, ⟨rfl, fun _ _ => nofun⟩, rfl, by decide, by decide⟩

theorem witness_UserModeCannotSetStepOrBreakEnable :
    (usr 0#32 0#32 clear).gie = true ∧ ∃ t, exec (.ldi 14#4 (.std 0xC0#23)) (usr 0#32 0#32 clear) = .next t := ⟨rfl, _, rfl⟩

theorem witness_TrapBitSetOnlyByUserTrap :
    ((usr 0#32 0#32 clear).gie = true ∧ (0#32)[5] = false) ∧
    (∃ t, exec (.ldi 14#4 (.std 0#23)) (usr 0#32 0#32 clear) = .next t ∧ (usr 0#32 0#32 clear).trap = false ∧ t.trap = true) ∧
    (∃ t, NoDebugCC ((usr 0#32 0#32 clear).withFetchWord 32 0x75800000) ∧ step ((usr 0#32 0#32 clear).withFetchWord 32 0x75800000) = .next t ∧
      ((usr 0#32 0#32 clear).withFetchWord 32 0x75800000).trap = false ∧ t.trap = true) := ⟨⟨rfl, rfl⟩, ⟨_, rfl, rfl, rfl⟩, _, fun _ _ => nofun, rfl, rfl, rfl⟩

theorem witness_OnlyCcWriteEntersUserMode :
    ∃ t, exec (.ldi 14#4 (.std 0x20#23)) (sup 0#32 0#32 clear) = .next t ∧ (sup 0#32 0#32 clear).gie = false ∧ t.gie = true := ⟨_, rfl, rfl, rfl⟩

/-- A state at an address of `platform`. -/
def placedAt (s : State) (a : Word) : State :=
  { s with regions := platform, sup := { s.sup with pc := a }, usr := { s.usr with pc := a } }

/-- An awake CPU that no interrupt stops and whose fetch is answered. -/
theorem running_of (s : State) (x : Input) (h : s.halted = none) (d : s.busDeadlocked = false) (a : s.sleep = false)
    (i : x.irq = false) (f : s.answers .fetch s.cur.pc = true) : Running s x := ⟨h, d, a, fun c => by simp [i] at c, f⟩

theorem witness_IllegalInstructionIsTaken :
    ((decodeWord 0x87800000#32).illegal = true ∧ (usr 0#32 0#32 clear).gie = true ∧ (sup 0#32 0#32 clear).gie = false) ∧
    (Running (placedAt (usr 0#32 0#32 clear) 0x9001#32) (inputOf false [] none) ∧
      (placedAt (usr 0#32 0#32 clear) 0x9001#32).reply .fetch (placedAt (usr 0#32 0#32 clear) 0x9001#32).cur.pc = .refused) ∧
    (Running (placedAt (sup 0#32 0#32 clear) 0x9001#32) (inputOf false [] none) ∧
      (placedAt (sup 0#32 0#32 clear) 0x9001#32).reply .fetch (placedAt (sup 0#32 0#32 clear) 0x9001#32).cur.pc = .refused) ∧
    (0#32)[8] = false := ⟨⟨by decide, rfl, rfl⟩, ⟨running_of _ _ rfl rfl rfl rfl rfl, rfl⟩, ⟨running_of _ _ rfl rfl rfl rfl rfl, rfl⟩, by decide⟩

theorem witness_BusErrorIsTaken :
    (condHolds ({ usr 5#32 0x9001#32 clear with regions := platform } : State).cur.flags (formCond (.stdReg .always 1#4 0#14)) = true ∧ ({ usr 5#32 0x9001#32 clear with regions := platform } : State).gie = true ∧
      ({ usr 5#32 0x9001#32 clear with regions := platform } : State).answers .load (({ usr 5#32 0x9001#32 clear with regions := platform } : State).operandB (.stdReg .always 1#4 0#14)) = true ∧ ({ usr 5#32 0x9001#32 clear with regions := platform } : State).reply .load (({ usr 5#32 0x9001#32 clear with regions := platform } : State).operandB (.stdReg .always 1#4 0#14)) = .refused) ∧
    (condHolds ({ sup 5#32 0x9001#32 clear with regions := platform } : State).cur.flags (formCond (.stdReg .always 1#4 0#14)) = true ∧ ({ sup 5#32 0x9001#32 clear with regions := platform } : State).gie = false ∧
      ({ sup 5#32 0x9001#32 clear with regions := platform } : State).answers .store (({ sup 5#32 0x9001#32 clear with regions := platform } : State).operandB (.stdReg .always 1#4 0#14)) = true ∧ ({ sup 5#32 0x9001#32 clear with regions := platform } : State).reply .store (({ sup 5#32 0x9001#32 clear with regions := platform } : State).operandB (.stdReg .always 1#4 0#14)) = .refused) ∧ (0#32)[10] = false := by decide

theorem witness_SupervisorExceptionBitsStay :
    ∃ t, step { State.reset with sup := { RegSet.reset 0#32 with ill := true, buserr := true, dive := true } } = .next t ∧
    ({ State.reset with sup := { RegSet.reset 0#32 with ill := true, buserr := true, dive := true } } : State).input.host = none := ⟨_, rfl, rfl⟩

theorem witness_FloatingPointBitStaysClear :
    (∃ t, NoDebugCC State.reset ∧ step State.reset = .next t) ∧ State.reset.sup.fpe = false ∧ State.reset.usr.fpe = false ∧ State.reset.cur.fpe = false := ⟨⟨_, fun _ _ => nofun, rfl⟩, rfl, rfl, rfl⟩

/-- A CPU about to fetch the given word, with nothing coming from outside. -/
def ready (w : Nat) (lock : Nat) : State := State.withFetchWord { usr 5#32 0x2000#32 clear with lockCount := lock } 32 w

theorem witness_StepRunsTheDecodedInstruction :
    ((ready 0x00844000 0).input.host = none ∧ Running (arrived (ready 0x00844000 0)) (ready 0x00844000 0).input ∧
      (arrived (ready 0x00844000 0)).fetchWord (arrived (ready 0x00844000 0)).cur.pc =
        .word 0x00844000#32 (arrived (ready 0x00844000 0)) ∧
      decodeWord 0x00844000#32 = .single (.add 0#4 (.stdReg .always 1#4 0#14)) ∧ (arrived (ready 0x00844000 0)).lockCount = 0) ∧
    ((ready 0x04844000 2).input.host = none ∧ Running (arrived (ready 0x04844000 2)) (ready 0x04844000 2).input ∧
      (arrived (ready 0x04844000 2)).fetchWord (arrived (ready 0x04844000 2)).cur.pc =
        .word 0x04844000#32 (arrived (ready 0x04844000 2)) ∧
      decodeWord 0x04844000#32 = .single (.lod 0#4 (.stdReg .always 1#4 0#14)) ∧ (CodeWord.single (.lod 0#4 (.stdReg .always 1#4 0#14))).lockable = true) := ⟨⟨rfl, running_of _ _ rfl rfl rfl rfl rfl, rfl, by decide, rfl⟩, rfl, running_of _ _ rfl rfl rfl rfl rfl, rfl, by decide, by decide⟩

theorem witness_StepRunsBothHalvesInOrder :
    (ready 0x80804041 0).input.host = none ∧ Running (arrived (ready 0x80804041 0)) (ready 0x80804041 0).input ∧
    (arrived (ready 0x80804041 0)).fetchWord (arrived (ready 0x80804041 0)).cur.pc =
      .word 0x80804041#32 (arrived (ready 0x80804041 0)) ∧
    decodeWord 0x80804041#32 = .pair (.add 0#4 (.c1Imm 0#3 1#4)) (.add 0#4 (.c2Imm 0#3 1#4)) ∧
    (decodeWord 0x80804041#32).illegal = false ∧ (Instr.add 0#4 (.c1Imm 0#3 1#4)).undefinedEncoding = false ∧
    (Instr.add 0#4 (.c2Imm 0#3 1#4)).undefinedEncoding = false ∧ (arrived (ready 0x80804041 0)).lockCount = 0 := ⟨rfl, running_of _ _ rfl rfl rfl rfl rfl, rfl, by decide, by decide, by decide, by decide, rfl⟩

theorem witness_EndOfWordCountsAndStepReturns :
    ({ sup 0#32 0#32 clear with busDeadlocked := true } : State).busDeadlocked = true ∧
    (({ usr 0#32 0#32 clear with stepBit := true } : State).busDeadlocked = false ∧
      (true && ({ usr 0#32 0#32 clear with stepBit := true } : State).gie && ({ usr 0#32 0#32 clear with stepBit := true } : State).stepBit &&
        ({ usr 0#32 0#32 clear with stepBit := true } : State).halted.isNone) = true) ∧
    (sup 0#32 0#32 clear).busDeadlocked = false ∧ (false && (sup 0#32 0#32 clear).gie) = false := by decide

theorem witness_UndefinedEncodingsAreRefused :
    (ready 0x808041E3 0).input.host = none ∧ Running (arrived (ready 0x808041E3 0)) (ready 0x808041E3 0).input ∧
    (arrived (ready 0x808041E3 0)).fetchWord (arrived (ready 0x808041E3 0)).cur.pc = .word 0x808041E3#32 (arrived (ready 0x808041E3 0)) ∧
    decodeWord 0x808041E3#32 = .pair (.add 0#4 (.c1Imm 0#3 1#4)) (.undefinedMovImm 0#4 (.c2 0#3 3#4)) ∧
    (decodeWord 0x808041E3#32).illegal = false ∧ (arrived (ready 0x808041E3 0)).lockCount = 0 ∧
    refusalOf (.add 0#4 (.c1Imm 0#3 1#4)) = none ∧ refusalOf (.undefinedMovImm 0#4 (.c2 0#3 3#4)) = some .compactMovImmediate ∧
    refusalOf (.brk (.c1 false 0#3 0#5)) = some .compactBreak := ⟨rfl, running_of _ _ rfl rfl rfl rfl rfl, rfl, by decide, by decide, rfl, rfl, rfl, rfl⟩

theorem witness_StepBitAllowsOneUserWord :
    ({ ready 0x00844000 0 with stepBit := true } : State).input.host = none ∧
    Running (arrived { ready 0x00844000 0 with stepBit := true }) ({ ready 0x00844000 0 with stepBit := true } : State).input ∧
    ({ ready 0x00844000 0 with stepBit := true } : State).gie = true ∧
    ∃ t, step { ready 0x00844000 0 with stepBit := true } = .next t := ⟨rfl, running_of _ _ rfl rfl rfl rfl rfl, rfl, _, rfl⟩

theorem witness_InterruptIsTakenBetweenWords :
    ((usr 0#32 0#32 clear).halted = none ∧ (usr 0#32 0#32 clear).busDeadlocked = false ∧ (usr 0#32 0#32 clear).gie = true ∧
      (usr 0#32 0#32 clear).lockCount = 0 ∧ (inputOf true [] none).irq = true) ∧
    (sup 0#32 0#32 clear).gie = false ∧ (ready 0 1).lockCount ≠ 0 := by decide

theorem witness_SleepAndHaltExecuteNothing :
    (({ usr 0#32 0#32 clear with sleep := true } : State).gie = true ∧ ({ usr 0#32 0#32 clear with sleep := true } : State).sleep = true ∧
      (inputOf false [(1#32, 2#32)] none).irq = false) ∧
    (({ sup 0#32 0#32 clear with halted := some .brk } : State).halted ≠ none ∧
      ({ sup 0#32 0#32 clear with halted := some .brk } : State).input.host = none) := by decide

/-- A CPU with writes of other bus masters that wait and that arrive. -/
def crowded (lock : Nat) (host : Option HostAction) : State :=
  { sup 0#32 0#32 clear with lockCount := lock, heldWrites := [(1#32, 2#32), (1#32, 3#32)], inputs := [inputOf false [(7#32, 8#32)] host] }

theorem witness_LockOpensAnExclusiveSpan :
    (Running (ready 0x76000000 1) (inputOf false [] none) ∧
      (ready 0x76000000 1).fetchWord (ready 0x76000000 1).cur.pc = .word 0x76000000#32 (ready 0x76000000 1) ∧
      (ready 0x76000000 1).lockCount ≠ 0 ∧ (decodeWord 0x76000000#32).lockable = false) ∧
    (crowded 2 none).lockCount ≠ 0 ∧
    (({ crowded 1 (some (.writeMem 4#32 5#32)) with halted := some .debugger } : State).lockCount ≠ 0 ∧
      ({ crowded 1 (some (.writeMem 4#32 5#32)) with halted := some .debugger } : State).halted ≠ none ∧
      ({ crowded 1 (some (.writeMem 4#32 5#32)) with halted := some .debugger } : State).input.host = some (.writeMem 4#32 5#32)) ∧
    ((crowded 0 none).mem.wf ∧ (crowded 0 none).lockCount = 0 ∧
      ∀ w ∈ (crowded 0 none).heldWrites ++ (crowded 0 none).input.writes, (crowded 0 none).reply .store w.1 = .memory) := ⟨⟨running_of _ _ rfl rfl rfl rfl rfl, rfl, by decide, by decide⟩, by decide, ⟨by decide, by decide, rfl⟩, by decide, rfl, fun _ _ => rfl⟩

/-- R376: writes that waited land oldest first, then those that arrive: the last one to an address stays. -/
theorem test_held_writes_land_in_order :
    ((arrived (crowded 0 none)).peek 1#32, (arrived (crowded 0 none)).peek 7#32, (arrived (crowded 2 none)).peek 1#32) =
      (3#32, 8#32, 0#32) := by decide

/-- R76 and R376: another bus master's write lands between the two loads of a compact word, here LOD (R1),R2 and
LOD (R1),R3. -/
theorem test_write_between_halves :
    after { sup 0#32 0x2000#32 clear with
        inputs := [{ irq := false, writes := [], afterFetch := [], between := [(0x2000#32, 9#32)], host := none }] }
      0x94844E51 (fun t => (t.sup.get 2#4, t.sup.get 3#4)) = some (0#32, 9#32) := by decide

theorem witness_FetchReturnsOldOrNewWord :
    ((ready 0 0).reply .fetch 0x100#32 = .memory ∧ (ready 0 0).staleAt 0x100#32 = []) ∧
    (∃ w u, ((ready 7 0).poke 0x100#32 8#32).fetchWord 0x100#32 = .word w u) ∧
    (7#32 = (ready 7 0).peek 0x100#32 ∧ 7#32 ≠ 8#32) := ⟨⟨rfl, rfl⟩, ⟨_, _, rfl⟩, by decide, by decide⟩

theorem witness_OnlyResetReleasesDeadlock :
    (({ sup 5#32 0x9002#32 clear with regions := platform } : State).answers .load (({ sup 5#32 0x9002#32 clear with regions := platform } : State).operandB (.stdReg .always 1#4 0#14)) = false ∧
      ({ sup 5#32 0x9002#32 clear with regions := platform } : State).answers .store (({ sup 5#32 0x9002#32 clear with regions := platform } : State).operandB (.stdReg .always 1#4 0#14)) = false ∧
      condHolds ({ sup 5#32 0x9002#32 clear with regions := platform } : State).cur.flags (formCond (.stdReg .always 1#4 0#14)) = true) ∧
    ((placedAt (usr 0#32 0#32 clear) 0x9002#32).halted = none ∧ (placedAt (usr 0#32 0#32 clear) 0x9002#32).busDeadlocked = false ∧
      (placedAt (usr 0#32 0#32 clear) 0x9002#32).sleep = false ∧
      ¬ ((placedAt (usr 0#32 0#32 clear) 0x9002#32).gie = true ∧ (inputOf false [] none).irq = true ∧ (placedAt (usr 0#32 0#32 clear) 0x9002#32).lockCount = 0) ∧
      (placedAt (usr 0#32 0#32 clear) 0x9002#32).answers .fetch (placedAt (usr 0#32 0#32 clear) 0x9002#32).cur.pc = false) ∧
    ((({ sup 5#32 0#32 clear with regions := platform, busDeadlocked := true } : State).busDeadlocked = true) ∧ ({ sup 5#32 0#32 clear with regions := platform, busDeadlocked := true } : State).halted = none ∧
      ({ sup 5#32 0#32 clear with regions := platform, busDeadlocked := true } : State).input.host ≠ some .reset) ∧
    ({ sup 5#32 0#32 clear with regions := platform, busDeadlocked := true, inputs := [inputOf false [] (some .reset)] } : State).input.host = some .reset := by decide

theorem witness_DebuggerActsOnHaltedCpu_halt :
    ({ sup 0#32 0#32 clear with inputs := [inputOf false [] (some .halt)] } : State).halted = none ∧
    ({ sup 0#32 0#32 clear with inputs := [inputOf false [] (some .halt)] } : State).busDeadlocked = false ∧
    ({ sup 0#32 0#32 clear with inputs := [inputOf false [] (some .halt)] } : State).input.host = some .halt := by decide

theorem witness_DebuggerActsOnHaltedCpu :
    (({ sup 0#32 0#32 clear with halted := some .brk, inputs := [inputOf false [] (some (.release))] } : State).halted ≠ none ∧ ({ sup 0#32 0#32 clear with halted := some .brk, inputs := [inputOf false [] (some (.release))] } : State).busDeadlocked = false ∧
      ({ sup 0#32 0#32 clear with halted := some .brk, inputs := [inputOf false [] (some (.release))] } : State).input.host = some (.release)) ∧
    (({ sup 0#32 0#32 clear with halted := some .brk, inputs := [inputOf false [] (some (.stepOne))] } : State).halted ≠ none ∧ ({ sup 0#32 0#32 clear with halted := some .brk, inputs := [inputOf false [] (some (.stepOne))] } : State).busDeadlocked = false ∧
      ({ sup 0#32 0#32 clear with halted := some .brk, inputs := [inputOf false [] (some (.stepOne))] } : State).input.host = some (.stepOne)) ∧
    (({ sup 0#32 0#32 clear with halted := some .brk, inputs := [inputOf false [] (some (.writeReg true 0#4 1#32))] } : State).halted ≠ none ∧ ({ sup 0#32 0#32 clear with halted := some .brk, inputs := [inputOf false [] (some (.writeReg true 0#4 1#32))] } : State).busDeadlocked = false ∧
      ({ sup 0#32 0#32 clear with halted := some .brk, inputs := [inputOf false [] (some (.writeReg true 0#4 1#32))] } : State).input.host = some (.writeReg true 0#4 1#32)) ∧
    (({ sup 0#32 0#32 clear with halted := some .brk, inputs := [inputOf false [] (some (.writeReg false 13#4 1#32))] } : State).halted ≠ none ∧ ({ sup 0#32 0#32 clear with halted := some .brk, inputs := [inputOf false [] (some (.writeReg false 13#4 1#32))] } : State).busDeadlocked = false ∧
      ({ sup 0#32 0#32 clear with halted := some .brk, inputs := [inputOf false [] (some (.writeReg false 13#4 1#32))] } : State).input.host = some (.writeReg false 13#4 1#32)) ∧
    (({ sup 0#32 0#32 clear with halted := some .brk, inputs := [inputOf false [] (some (.writeReg false pcReg 2#32))] } : State).halted ≠ none ∧ ({ sup 0#32 0#32 clear with halted := some .brk, inputs := [inputOf false [] (some (.writeReg false pcReg 2#32))] } : State).busDeadlocked = false ∧
      ({ sup 0#32 0#32 clear with halted := some .brk, inputs := [inputOf false [] (some (.writeReg false pcReg 2#32))] } : State).input.host = some (.writeReg false pcReg 2#32)) ∧
    (({ sup 0#32 0#32 clear with halted := some .brk, inputs := [inputOf false [] (some (.writeReg true ccReg 0x1F20#32))] } : State).halted ≠ none ∧ ({ sup 0#32 0#32 clear with halted := some .brk, inputs := [inputOf false [] (some (.writeReg true ccReg 0x1F20#32))] } : State).busDeadlocked = false ∧
      ({ sup 0#32 0#32 clear with halted := some .brk, inputs := [inputOf false [] (some (.writeReg true ccReg 0x1F20#32))] } : State).input.host = some (.writeReg true ccReg 0x1F20#32)) ∧ (13#4).toNat < 14 := by decide

theorem witness_DebuggerActsOnHaltedCpu_writeMem :
    ({ sup 0#32 0#32 clear with halted := some .brk, inputs := [inputOf false [] (some (.writeMem 0xFFFFFFFF#32 5#32))] } : State).halted ≠ none ∧ ({ sup 0#32 0#32 clear with halted := some .brk, inputs := [inputOf false [] (some (.writeMem 0xFFFFFFFF#32 5#32))] } : State).busDeadlocked = false ∧ ({ sup 0#32 0#32 clear with halted := some .brk, inputs := [inputOf false [] (some (.writeMem 0xFFFFFFFF#32 5#32))] } : State).input.host = some (.writeMem 0xFFFFFFFF#32 5#32) ∧
    ({ sup 0#32 0#32 clear with halted := some .brk, inputs := [inputOf false [] (some (.writeMem 0xFFFFFFFF#32 5#32))] } : State).mem.wf ∧ ({ sup 0#32 0#32 clear with halted := some .brk, inputs := [inputOf false [] (some (.writeMem 0xFFFFFFFF#32 5#32))] } : State).lockCount = 0 ∧ ({ sup 0#32 0#32 clear with halted := some .brk, inputs := [inputOf false [] (some (.writeMem 0xFFFFFFFF#32 5#32))] } : State).heldWrites = [] ∧ ({ sup 0#32 0#32 clear with halted := some .brk, inputs := [inputOf false [] (some (.writeMem 0xFFFFFFFF#32 5#32))] } : State).input.writes = [] ∧ ({ sup 0#32 0#32 clear with halted := some .brk, inputs := [inputOf false [] (some (.writeMem 0xFFFFFFFF#32 5#32))] } : State).reply .store 0xFFFFFFFF#32 = .memory := by decide

theorem witness_StepKeepsTheInvariant :
    State.reset.Inv ∧ State.reset.Sound ∧ NoDebugCC State.reset ∧
    (State.reset.input.host = some .release → State.reset.sleep = true → State.reset.gie = true) ∧ ∃ t, step State.reset = .next t := ⟨⟨⟨by decide, by decide, nofun⟩, rfl, rfl, nofun, nofun⟩, ⟨by decide, by decide, nofun⟩, fun _ _ => nofun, nofun, _, rfl⟩

theorem witness_AnsweringPlatformNeverSticks :
    ({ sup 0#32 0#32 clear with regions := [{ base := 0, size := 1, fetch := .memory, load := .refused, store := .peripheral, silent := [] }] } : State).AlwaysAnswered ∧
    ∃ t, step { sup 0#32 0#32 clear with regions := [{ base := 0, size := 1, fetch := .memory, load := .refused, store := .peripheral, silent := [] }] } = .next t := ⟨⟨rfl, by decide⟩, _, rfl⟩

end Sys2Proof.Tests
end

section
/-! Registers 0 to 13 of both sets (R20), and the places of the CC bits (R29). -/

namespace Sys2Proof.Machine

theorem State.readUser_gen (s : State) (i : RegNum) (h : i.toNat < 14) : s.readUser i = s.usr.get i := by
  have h1 : i ≠ pcReg := by rintro rfl; simp at h
  have h2 : i ≠ ccReg := by rintro rfl; simp at h
  simp [State.readUser, h1, h2]

theorem State.writeUser_gen (s : State) (i : RegNum) (v : Word) (h : i.toNat < 14) :
    s.writeUser i v = { s with usr := s.usr.put i v } := by
  have h1 : i ≠ pcReg := by rintro rfl; simp at h
  have h2 : i ≠ ccReg := by rintro rfl; simp at h
  simp [State.writeUser, h1, h2]

theorem State.readReg_writeReg_gen (s : State) (i j : RegNum) (v : Word) (hi : i.toNat < 14) (hj : j.toNat < 14) :
    (s.writeReg i v).readReg j = if i = j then v else s.readReg j := by
  rw [State.readReg_gen _ _ hj, State.readReg_gen _ _ hj, State.writeReg_gen _ _ _ hi, State.setCur_cur,
    RegSet.get_put _ _ _ _ hi]

theorem State.readUser_writeUser_gen (s : State) (i j : RegNum) (v : Word) (hi : i.toNat < 14) (hj : j.toNat < 14) :
    (s.writeUser i v).readUser j = if i = j then v else s.readUser j := by
  rw [State.readUser_gen _ _ hj, State.readUser_gen _ _ hj, State.writeUser_gen _ _ _ hi, RegSet.get_put _ _ _ _ hi]

theorem State.writeReg_gen_user (s : State) (i : RegNum) (v : Word) (hi : i.toNat < 14) (hg : s.gie = true) :
    s.writeReg i v = { s with usr := s.usr.put i v } := by
  rw [State.writeReg_gen _ _ _ hi, State.setCur, if_pos hg, State.cur_user s hg]

theorem State.writeReg_gen_supervisor (s : State) (i : RegNum) (v : Word) (hi : i.toNat < 14) (hg : s.gie = false) :
    s.writeReg i v = { s with sup := s.sup.put i v } := by
  rw [State.writeReg_gen _ _ _ hi, State.setCur, if_neg (by simp [hg]), State.cur_sup s hg]

section
variable (s : State) (rs : RegSet) (user : Bool)

theorem State.ccOf_flags : (s.ccOf rs user)[0] = rs.flags.z ∧ (s.ccOf rs user)[1] = rs.flags.c ∧
    (s.ccOf rs user)[2] = rs.flags.n ∧ (s.ccOf rs user)[3] = rs.flags.v := by
  simp only [← BitVec.getLsbD_eq_getElem, State.ccOf, Flags.bits, BitVec.getLsbD_append]
  simp

theorem State.ccOf_modeBits : (s.ccOf rs user)[4] = s.sleep ∧ (s.ccOf rs user)[5] = user ∧
    (s.ccOf rs user)[6] = s.stepBit ∧ (s.ccOf rs user)[7] = s.breakEn := by
  simp only [← BitVec.getLsbD_eq_getElem, State.ccOf, BitVec.getLsbD_append]
  simp

theorem State.ccOf_causeBits : (s.ccOf rs user)[8] = rs.ill ∧ (s.ccOf rs user)[9] = s.trap ∧
    (s.ccOf rs user)[10] = rs.buserr ∧ (s.ccOf rs user)[11] = rs.dive ∧ (s.ccOf rs user)[12] = rs.fpe := by
  simp only [← BitVec.getLsbD_eq_getElem, State.ccOf, BitVec.getLsbD_append]
  simp

theorem State.ccOf_softwareBits : (s.ccOf rs user).toNat / 2 ^ 13 = rs.hi.toNat := by
  have h : (s.ccOf rs user).extractLsb' 13 19 = rs.hi := by
    simp (disch := omega) only [State.ccOf, BitVec.extractLsb'_append_eq_of_le]
    exact BitVec.extractLsb'_eq_self
  rw [← h, BitVec.extractLsb'_toNat, Nat.shiftRight_eq_div_pow, Nat.mod_eq_of_lt (by omega)]

end

end Sys2Proof.Machine

namespace Sys2Proof.Proofs

open Sys2Proof.Machine

/-- Settles O8, from reading a register 0 to 13 after a write of one, and the frame of such a write. -/
theorem generalRegistersArePlainStorage : Obligations.GeneralRegistersArePlainStorage := by
  intro s i v hi
  refine ⟨?_, fun j hj hj' => ?_, ?_, fun j hj hj' => ?_, fun hg => ?_, fun hg => ?_, ?_⟩
  · rw [s.readReg_writeReg_gen i i v hi hi, if_pos rfl]
  · rw [s.readReg_writeReg_gen i j v hi hj', if_neg hj.symm]
  · rw [s.readUser_writeUser_gen i i v hi hi, if_pos rfl]
  · rw [s.readUser_writeUser_gen i j v hi hj', if_neg hj.symm]
  · rw [s.writeReg_gen_user i v hi hg]; exact ⟨rfl, rfl⟩
  · rw [s.writeReg_gen_supervisor i v hi hg]; exact ⟨rfl, rfl⟩
  · rw [s.writeUser_gen i v hi]; rfl

/-- Settles O10, from the bits of a composed CC. -/
theorem ccBitsReadInTheirPlaces : Obligations.CcBitsReadInTheirPlaces := by
  intro s
  obtain ⟨hz, hc, hn, hv⟩ := s.ccOf_flags s.cur s.gie
  obtain ⟨hsleep, hgie, hstep, hbreak⟩ := s.ccOf_modeBits s.cur s.gie
  obtain ⟨hill, htrap, hbuserr, hdive, hfpe⟩ := s.ccOf_causeBits s.cur s.gie
  rw [State.readReg_cc, State.readCC]
  exact ⟨hz, hc, hn, hv, hsleep, hgie, hstep, hbreak, hill, htrap, hbuserr, hdive, hfpe, s.ccOf_softwareBits _ _⟩

end Sys2Proof.Proofs
end

section
/-! Changing the register set that is not in use changes nothing an instruction does (R23): the shared operations, the
instructions and the step commute with such a change. -/

namespace Sys2Proof.Machine

open Sys2Proof.Claims

/-! ### Changing the two register sets -/

/-- What a read gives, its state changed by a function. -/
def ReadResult.mapState (g : State → State) : ReadResult → ReadResult
  | .word w t => .word w (g t)
  | .busError t => .busError (g t)

/-- What a write gives, its state changed by a function. -/
def WriteResult.mapState (g : State → State) : WriteResult → WriteResult
  | .done t => .done (g t)
  | .busError t => .busError (g t)

/-- The state with `f` applied to the supervisor set and `h` to the user set. -/
def State.mapSets (f h : RegSet → RegSet) (s : State) : State := { s with sup := f s.sup, usr := h s.usr }

/-- A change of the two register sets that leaves the set in use in the mode `gie` alone. In supervisor mode the change of
the user set must not depend on the exception bits, which a return to user mode clears (R363). -/
structure OtherSetOnly (gie : Bool) (f h : RegSet → RegSet) : Prop where
  user : gie = true → h = id
  supervisor : gie = false → f = id
  clearExc : gie = false → ∀ rs, h rs.clearExc = (h rs).clearExc

/-- In user mode any change of the supervisor set will do. -/
theorem OtherSetOnly.inUserMode {gie : Bool} (hg : gie = true) (f : RegSet → RegSet) : OtherSetOnly gie f id :=
  ⟨fun _ => rfl, by simp [hg], by simp [hg]⟩

section
variable (f h : RegSet → RegSet) (s : State)

@[simp] theorem State.mapSets_gie : (s.mapSets f h).gie = s.gie := rfl
@[simp] theorem State.mapSets_breakEn : (s.mapSets f h).breakEn = s.breakEn := rfl
@[simp] theorem State.mapSets_control : (s.mapSets f h).control = s.control := rfl
@[simp] theorem State.mapSets_wordAddr : (s.mapSets f h).wordAddr = s.wordAddr := rfl
@[simp] theorem State.mapSets_halted : (s.mapSets f h).halted = s.halted := rfl
@[simp] theorem State.mapSets_busDeadlocked : (s.mapSets f h).busDeadlocked = s.busDeadlocked := rfl
@[simp] theorem State.mapSets_lockCount : (s.mapSets f h).lockCount = s.lockCount := rfl
@[simp] theorem State.mapSets_sleep : (s.mapSets f h).sleep = s.sleep := rfl
@[simp] theorem State.mapSets_ccOf (rs : RegSet) (user : Bool) : (s.mapSets f h).ccOf rs user = s.ccOf rs user := rfl
@[simp] theorem State.mapSets_input : (s.mapSets f h).input = s.input := rfl
@[simp] theorem State.mapSets_excPc (e : Exc) : (s.mapSets f h).excPc e = s.excPc e := by cases e <;> rfl
@[simp] theorem State.mapSets_reply (k : Access) (a : Word) : (s.mapSets f h).reply k a = s.reply k a := rfl
@[simp] theorem State.mapSets_answers (k : Access) (a : Word) : (s.mapSets f h).answers k a = s.answers k a := rfl
@[simp] theorem State.mapSets_staleAt (a : Word) : (s.mapSets f h).staleAt a = s.staleAt a := rfl
@[simp] theorem State.mapSets_loadEvent (a : Word) : (s.mapSets f h).loadEvent a = s.loadEvent a := rfl
@[simp] theorem State.mapSets_storeEvent (a v : Word) : (s.mapSets f h).storeEvent a v = s.storeEvent a v := rfl

/-! ### Operations that touch neither set -/

@[simp] theorem State.popInput_mapSets : (s.mapSets f h).popInput = s.popInput.mapSets f h := rfl
@[simp] theorem State.queueWrites_mapSets (ws : List (Word × Word)) :
    (s.mapSets f h).queueWrites ws = (s.queueWrites ws).mapSets f h := rfl

theorem State.outsideWrite_mapSets (a v : Word) :
    (s.mapSets f h).outsideWrite a v = (s.outsideWrite a v).mapSets f h := by
  unfold State.outsideWrite
  rw [State.mapSets_reply]
  split <;> rfl

theorem State.outsideWrites_mapSets (ws : List (Word × Word)) :
    ws.foldl (fun t w => t.outsideWrite w.1 w.2) (s.mapSets f h) =
      (ws.foldl (fun t w => t.outsideWrite w.1 w.2) s).mapSets f h := by
  induction ws generalizing s with
  | nil => rfl
  | cons w ws ih => rw [List.foldl_cons, State.outsideWrite_mapSets, ih, List.foldl_cons]

@[simp] theorem State.admitWrites_mapSets (ws : List (Word × Word)) :
    (s.mapSets f h).admitWrites ws = (s.admitWrites ws).mapSets f h := by
  unfold State.admitWrites
  rw [State.mapSets_lockCount]
  split
  · exact State.outsideWrites_mapSets f h { s with heldWrites := [] } (s.heldWrites ++ ws)
  · rfl

theorem State.memRead_mapSets (a : Word) :
    (s.mapSets f h).memRead a = (s.memRead a).mapState (State.mapSets f h) := by
  simp only [State.memRead, State.mapSets_reply]
  cases s.reply .load a <;> rfl

theorem State.memWrite_mapSets (a v : Word) :
    (s.mapSets f h).memWrite a v = (s.memWrite a v).mapState (State.mapSets f h) := by
  simp only [State.memWrite, State.mapSets_reply]
  cases s.reply .store a <;> rfl

theorem State.fetchWord_mapSets (a : Word) :
    (s.mapSets f h).fetchWord a = (s.fetchWord a).mapState (State.mapSets f h) := by
  simp only [State.fetchWord, State.mapSets_reply, State.mapSets_staleAt]
  cases s.reply .fetch a
  case memory => cases s.staleAt a <;> rfl
  case peripheral | refused => rfl

end

/-! ### The set in use -/

section
variable {f h : RegSet → RegSet} {s : State} (H : OtherSetOnly s.gie f h)
include H

theorem State.cur_mapSets : (s.mapSets f h).cur = s.cur := by
  cases hg : s.gie
  · simp [State.cur, State.mapSets, hg, H.supervisor hg]
  · simp [State.cur, State.mapSets, hg, H.user hg]

theorem State.setCur_mapSets (rs : RegSet) : (s.mapSets f h).setCur rs = (s.setCur rs).mapSets f h := by
  cases hg : s.gie
  · simp [State.setCur, State.mapSets, hg, H.supervisor hg]
  · simp [State.setCur, State.mapSets, hg, H.user hg]

theorem State.setPc_mapSets (v : Word) : (s.mapSets f h).setPc v = (s.setPc v).mapSets f h := by
  rw [State.setPc, State.cur_mapSets H, State.setCur_mapSets H, State.setPc]

theorem State.jump_mapSets (v : Word) : (s.mapSets f h).jump v = (s.jump v).mapSets f h := by
  rw [State.jump, State.setPc_mapSets H]; rfl

theorem State.beginWord_mapSets : (s.mapSets f h).beginWord = s.beginWord.mapSets f h := by
  rw [State.beginWord, State.cur_mapSets H, State.setPc_mapSets H]; rfl

theorem State.readReg_mapSets (i : RegNum) : (s.mapSets f h).readReg i = s.readReg i := by
  simp [State.readReg, State.readCC, State.cur_mapSets H]

theorem State.operandB_mapSets (b : Form) : (s.mapSets f h).operandB b = s.operandB b := by
  cases b <;> simp [State.operandB, State.readReg_mapSets H]

theorem State.writeFlags_mapSets (r : Word) (cv : CarryOverflow) :
    (s.mapSets f h).writeFlags r cv = (s.writeFlags r cv).mapSets f h := by
  rw [State.writeFlags, State.cur_mapSets H, State.setCur_mapSets H]; rfl

/-! ### Events that change the mode -/

theorem State.enterSupervisor_mapSets (hg : s.gie = true) (v : Word) :
    (s.mapSets f h).enterSupervisor v = (s.enterSupervisor v).mapSets f h := by
  simp [State.enterSupervisor, State.mapSets, H.user hg]

theorem State.returnToUser_mapSets (hg : s.gie = false) :
    (s.mapSets f h).returnToUser = s.returnToUser.mapSets f h := by
  simp [State.returnToUser, State.mapSets, H.supervisor hg, H.clearExc hg]

theorem State.writeCCUser_mapSets (hg : s.gie = true) (v : Word) :
    (s.mapSets f h).writeCCUser v = (s.writeCCUser v).mapSets f h := by
  obtain rfl := H.user hg
  unfold State.writeCCUser
  dsimp only
  split <;> rfl

theorem State.writeCCSupervisor_mapSets (hg : s.gie = false) (v : Word) :
    (s.mapSets f h).writeCCSupervisor v = (s.writeCCSupervisor v).mapSets f h := by
  obtain rfl := H.supervisor hg
  unfold State.writeCCSupervisor
  dsimp only
  split
  · exact State.returnToUser_mapSets (s := { s with
      sup := s.sup.putCCBits v, stepBit := v[6], breakEn := v[7], sleep := v[4] }) H hg
  split <;> rfl

theorem State.writeCC_mapSets (v : Word) : (s.mapSets f h).writeCC v = (s.writeCC v).mapSets f h := by
  cases hg : s.gie
  · rw [State.writeCC_sup s v hg, State.writeCC_sup (s.mapSets f h) v hg, State.writeCCSupervisor_mapSets H hg]
  · rw [State.writeCC_user s v hg, State.writeCC_user (s.mapSets f h) v hg, State.writeCCUser_mapSets H hg]

theorem State.writeReg_mapSets (i : RegNum) (v : Word) : (s.mapSets f h).writeReg i v = (s.writeReg i v).mapSets f h := by
  unfold State.writeReg
  split
  · exact State.jump_mapSets H v
  split
  · exact State.writeCC_mapSets H v
  · rw [State.cur_mapSets H, State.setCur_mapSets H]

omit H in
/-- Writing any register but CC keeps the mode (R156). -/
theorem State.writeReg_gie_of_ne_cc {i : RegNum} (hi : i ≠ ccReg) (v : Word) : (s.writeReg i v).gie = s.gie := by
  rcases s.writeReg_cases i v with ⟨-, e⟩ | ⟨-, e⟩ | ⟨e, -⟩
  · simp [e]
  · simp [e]
  · exact absurd e hi

theorem State.writeResult_mapSets (cnd : Cond) (dr : RegNum) (r : Word) (cv : CarryOverflow) :
    (s.mapSets f h).writeResult cnd dr r cv = (s.writeResult cnd dr r cv).mapSets f h := by
  simp only [State.writeResult, State.writeReg_mapSets H]
  split
  case isTrue hc =>
    have H' : OtherSetOnly (s.writeReg dr r).gie f h := by rwa [State.writeReg_gie_of_ne_cc hc.2]
    exact State.writeFlags_mapSets H' r cv
  case isFalse => rfl

theorem State.raise_mapSets (e : Exc) : (s.mapSets f h).raise e = (s.raise e).mapSets f h := by
  cases hg : s.gie
  · rw [State.raise_sup s e hg, State.raise_sup (s.mapSets f h) e hg, State.mapSets_excPc]
    simp [State.halt, State.mapSets, H.supervisor hg]
  · rw [State.raise_user s e hg, State.raise_user (s.mapSets f h) e hg, State.mapSets_excPc]
    simp [State.enterSupervisor, State.mapSets, H.user hg]

theorem State.raiseBusError_mapSets : (s.mapSets f h).raiseBusError = s.raiseBusError.mapSets f h :=
  State.raise_mapSets (s := { s with lockCount := 0 }) H .busError

theorem State.breakTrap_mapSets : (s.mapSets f h).breakTrap = s.breakTrap.mapSets f h := by
  unfold State.breakTrap
  simp only [State.mapSets_breakEn, State.mapSets_gie, State.mapSets_wordAddr, State.setPc_mapSets H]
  split
  · rfl
  · exact State.enterSupervisor_mapSets H (by simp_all) _

/-! ### The instructions -/

theorem conditional_mapSets (cnd : Cond) {o o' : Outcome} (ho : o' = mapNext (State.mapSets f h) o) :
    conditional cnd (s.mapSets f h) o' = mapNext (State.mapSets f h) (conditional cnd s o) := by
  rw [conditional, State.cur_mapSets H, conditional, ho]
  split <;> rfl

theorem aluOp_mapSets (r : Word → Word → Word) (cv : Word → Word → CarryOverflow) (dr : RegNum) (b : Form) :
    aluOp r cv dr b (s.mapSets f h) = mapNext (State.mapSets f h) (aluOp r cv dr b s) := by
  simp only [aluOp, State.readReg_mapSets H, State.operandB_mapSets H, State.writeResult_mapSets H]
  exact conditional_mapSets H _ rfl

theorem compareOp_mapSets (r : Word → Word → Word) (cv : Word → Word → CarryOverflow) (dr : RegNum) (b : Form) :
    compareOp r cv dr b (s.mapSets f h) = mapNext (State.mapSets f h) (compareOp r cv dr b s) := by
  simp only [compareOp, State.readReg_mapSets H, State.operandB_mapSets H, State.writeFlags_mapSets H]
  exact conditional_mapSets H _ rfl

theorem loadOp_mapSets (r : Word → Word → Word) (dr : RegNum) (b : Form) :
    loadOp r dr b (s.mapSets f h) = mapNext (State.mapSets f h) (loadOp r dr b s) := by
  simp only [loadOp, State.readReg_mapSets H, State.operandB_mapSets H, State.writeReg_mapSets H]
  exact conditional_mapSets H _ rfl

theorem divideOp_mapSets (q : Word → Word → Word) (dr : RegNum) (b : Form) :
    divideOp q dr b (s.mapSets f h) = mapNext (State.mapSets f h) (divideOp q dr b s) := by
  simp only [divideOp, State.readReg_mapSets H, State.operandB_mapSets H, State.writeResult_mapSets H,
    State.raise_mapSets H, ← apply_ite]
  exact conditional_mapSets H _ rfl

theorem illegalOp_mapSets : illegalOp (s.mapSets f h) = mapNext (State.mapSets f h) (illegalOp s) :=
  congrArg Host.Outcome.next (State.raise_mapSets H _)

theorem execLdi_mapSets (dr : RegNum) (b : LdiForm) :
    execLdi dr b (s.mapSets f h) = mapNext (State.mapSets f h) (execLdi dr b s) := by
  simp only [execLdi, State.writeReg_mapSets H]
  exact conditional_mapSets H _ rfl

omit H in
/-- A data access commutes with a change of the sets when what it is answered does (R75, R85). -/
theorem dataAccess_mapSets (k : Access) (a : Word) (e : BusEvent) {o o' : Outcome}
    (ho : o' = mapNext (State.mapSets f h) o) :
    (s.mapSets f h).dataAccess k a e o' = mapNext (State.mapSets f h) (s.dataAccess k a e o) := by
  rw [State.dataAccess, State.dataAccess, State.mapSets_answers, ho]
  split <;> rfl

theorem execLod_mapSets (dr : RegNum) (b : Form) :
    execLod dr b (s.mapSets f h) = mapNext (State.mapSets f h) (execLod dr b s) := by
  simp only [execLod, State.operandB_mapSets H, State.mapSets_loadEvent, State.memRead_mapSets]
  refine conditional_mapSets H _ (dataAccess_mapSets _ _ _ ?_)
  rcases s.memRead_cases (s.operandB b) with ⟨-, e⟩ | ⟨-, e⟩ | ⟨-, e⟩ <;> rw [e]
  · exact congrArg Host.Outcome.next (State.writeReg_mapSets (s := s.present _) H dr _)
  · exact congrArg Host.Outcome.next (State.writeReg_mapSets (s := (s.present _).countDraws 1) H dr _)
  · exact congrArg Host.Outcome.next (State.raiseBusError_mapSets (s := s.present _) H)

theorem execSto_mapSets (dr : RegNum) (b : Form) :
    execSto dr b (s.mapSets f h) = mapNext (State.mapSets f h) (execSto dr b s) := by
  simp only [execSto, State.operandB_mapSets H, State.readReg_mapSets H, State.mapSets_storeEvent,
    State.memWrite_mapSets]
  refine conditional_mapSets H _ (dataAccess_mapSets _ _ _ ?_)
  rcases s.memWrite_cases (s.operandB b) (s.readReg dr) with ⟨-, e⟩ | ⟨-, e⟩ | ⟨-, e⟩ <;> rw [e]
  · rfl
  · rfl
  · exact congrArg Host.Outcome.next (State.raiseBusError_mapSets (s := s.present _) H)

omit H in
/-- In user mode no bit of a MOV names the other set (R223). -/
theorem State.crosses_user (hg : s.gie = true) (bit : Bool) : s.crosses bit = false := by
  simp [State.crosses, hg]

omit H in
theorem State.movCrosses_user (hg : s.gie = true) (b : MovForm) : s.movCrosses b = false := by
  cases b <;> simp [State.movCrosses, State.crosses_user hg]

theorem State.movValue_mapSets (hg : s.gie = true) (b : MovForm) : (s.mapSets f h).movValue b = s.movValue b := by
  have hg' : (s.mapSets f h).gie = true := hg
  cases b <;> simp [State.movValue, State.crosses_user hg, State.crosses_user hg', State.readReg_mapSets H]

theorem execMov_mapSets (hg : s.gie = true) (dr : RegNum) (b : MovForm) :
    execMov dr b (s.mapSets f h) = mapNext (State.mapSets f h) (execMov dr b s) := by
  have hg' : (s.mapSets f h).gie = true := hg
  simp only [execMov, State.movCrosses_user hg, State.movCrosses_user hg', State.movValue_mapSets H hg,
    State.writeReg_mapSets H]
  exact conditional_mapSets H _ rfl

/-- An instruction does the same whatever the set that is not in use holds, and leaves it as it is, unless it is a
supervisor-mode MOV (R23). -/
theorem exec_mapSets (i : Instr) (hi : s.gie = true ∨ ∀ dr b, i ≠ .mov dr b) :
    exec i (s.mapSets f h) = mapNext (State.mapSets f h) (exec i s) := by
  cases i
  case mov dr b =>
    rcases hi with hg | hne
    · exact execMov_mapSets H hg dr b
    · exact absurd rfl (hne dr b)
  case ldi dr b => exact execLdi_mapSets H dr b
  case lod dr b => exact execLod_mapSets H dr b
  case sto dr b => exact execSto_mapSets H dr b
  case noop b => rfl
  case undefinedMovImm dr b => rfl
  case brk b =>
    cases b
    case std => exact congrArg Host.Outcome.next (State.breakTrap_mapSets H)
    case c1 | c2 => rfl
  case lock b => cases b <;> rfl
  case fpadd | fpsub | fpmpy | fpdiv | fpcvt | fpint | illegal1B | illegal1C | illegal1D | reserved1E | reserved1F =>
    exact illegalOp_mapSets H
  case cmp | tst => exact compareOp_mapSets H _ _ _ _
  case ldihi | ldilo => exact loadOp_mapSets H _ _ _
  case divu | divs => exact divideOp_mapSets H _ _ _
  all_goals exact aluOp_mapSets H _ _ _ _

end

/-! ### The mode changes by a control event only -/

theorem State.writeCC_gie_or_control (s : State) (v : Word) :
    (s.writeCC v).gie = s.gie ∨ (s.writeCC v).control = true := by
  cases hg : s.gie
  · rw [State.writeCC_sup s v hg]
    rcases s.writeCCSupervisor_cases v with ⟨-, e⟩ | ⟨-, -, e⟩ | ⟨-, -, e⟩ <;> simp [e, hg]
  · rw [State.writeCC_user s v hg]
    rcases s.writeCCUser_cases v with ⟨-, e⟩ | ⟨-, e⟩ <;> simp [e, hg]

theorem State.writeReg_gie_or_control (s : State) (i : RegNum) (v : Word) :
    (s.writeReg i v).gie = s.gie ∨ (s.writeReg i v).control = true := by
  by_cases hi : i = ccReg
  · rw [hi, State.writeReg_cc]
    exact s.writeCC_gie_or_control v
  · exact .inl (State.writeReg_gie_of_ne_cc hi v)

theorem State.writeResult_gie_or_control (s : State) (cnd : Cond) (dr : RegNum) (r : Word) (cv : CarryOverflow) :
    (s.writeResult cnd dr r cv).gie = s.gie ∨ (s.writeResult cnd dr r cv).control = true := by
  unfold State.writeResult
  dsimp only
  split
  · simpa using s.writeReg_gie_or_control dr r
  · exact s.writeReg_gie_or_control dr r

theorem State.raise_control (s : State) (e : Exc) : (s.raise e).control = true := by
  unfold State.raise
  split <;> rfl

theorem State.breakTrap_control (s : State) : s.breakTrap.control = true := by
  rcases s.breakTrap_cases with ⟨-, e⟩ | ⟨-, -, e⟩ <;> simp [e]

theorem Effect.gie_or_control {s t : State} (he : Effect s t) : t.gie = s.gie ∨ t.control = true := by
  cases he with
  | nothing => exact .inl rfl
  | result cnd dr r cv => exact s.writeResult_gie_or_control cnd dr r cv
  | compared r cv => exact .inl (s.writeFlags_gie r cv)
  | register dr v => exact s.writeReg_gie_or_control dr v
  | userRegister _ dr v => exact .inl (s.writeUser_gie dr v)
  | loaded e k dr v => exact ((s.present e).countDraws k).writeReg_gie_or_control dr v
  | stored | storedOutside | locked => exact .inl rfl
  | stuck => exact .inr rfl
  | busError | illegal | divideByZero => exact .inr (State.raise_control _ _)
  | broke => exact .inr s.breakTrap_control

/-! ### The step in user mode -/

theorem Outcome.andThen_mapNext {p : State → State} {o : Outcome} {g : State → Outcome}
    (hg : ∀ t, o = .next t → g (p t) = mapNext p (g t)) :
    Outcome.andThen (mapNext p o) g = mapNext p (Outcome.andThen o g) := by
  cases o with
  | next t => exact hg t rfl
  | fault r => rfl
  | refused r => rfl

section
variable (f : RegSet → RegSet) {s : State} (hg : s.gie = true)

theorem State.endWord_mapSets (t : State) (wasUser isLock : Bool) :
    (t.mapSets f id).endWord wasUser isLock = (t.endWord wasUser isLock).mapSets f id := by
  simp only [State.endWord, apply_ite (State.mapSets f id)]
  cases isLock <;> rfl

include hg

theorem execHalves_mapSets (ws : List (Word × Word)) (i j : Instr) :
    execHalves ws i j (s.mapSets f id) = mapNext (State.mapSets f id) (execHalves ws i j s) := by
  rw [execHalves, exec_mapSets (.inUserMode hg f) i (.inl hg)]
  refine Outcome.andThen_mapNext fun t ht => ?_
  cases hc : t.control
  case true => simp [hc, mapNext]
  case false =>
    have ht' : t.gie = true := by
      rcases (exec_effect i s t ht).gie_or_control with e | e
      · rw [e, hg]
      · simp [hc] at e
    have ha : (t.admitWrites ws).gie = true := by simp [ht']
    simp [hc, exec_mapSets (.inUserMode ha f) j (.inl ha)]

theorem execWord_mapSets (ws : List (Word × Word)) (d : CodeWord) :
    execWord ws d (s.mapSets f id) = mapNext (State.mapSets f id) (execWord ws d s) := by
  have hexec (i : Instr) := exec_mapSets (.inUserMode hg f) i (.inl hg)
  cases d with
  | single i =>
    rw [execWord, hexec]
    exact Outcome.andThen_mapNext fun t _ => rfl
  | pair i j =>
    simp only [execWord]
    split
    · exact congrArg (fun t => Host.Outcome.next (State.queueWrites t ws)) (State.raise_mapSets (.inUserMode hg f) _)
    split
    · exact hexec i
    split
    · exact hexec j
    · exact execHalves_mapSets f hg ws i j

theorem State.runFetched_mapSets (x : Input) (d : CodeWord) :
    (s.mapSets f id).runFetched x d = mapNext (State.mapSets f id) (s.runFetched x d) := by
  have ha : (s.admitWrites x.afterFetch).gie = true := by simp [hg]
  have hb : (s.admitWrites x.afterFetch).beginWord.gie = true := by simp [hg]
  simp only [State.runFetched, State.mapSets_lockCount, State.mapSets_gie, State.admitWrites_mapSets,
    State.beginWord_mapSets (.inUserMode ha f), execWord_mapSets f hb]
  split
  · rfl
  · exact Outcome.andThen_mapNext fun t _ => congrArg Host.Outcome.next (State.endWord_mapSets f t _ _)

theorem State.fetchFault_mapSets : (s.mapSets f id).fetchFault = s.fetchFault.mapSets f id := by
  rw [State.fetchFault, State.beginWord_mapSets (.inUserMode hg f)]
  exact State.raise_mapSets (s := { s.beginWord with lockCount := 0 }) (.inUserMode (by simp [hg]) f) _

theorem State.interruptEntry_mapSets : (s.mapSets f id).interruptEntry = s.interruptEntry.mapSets f id :=
  State.enterSupervisor_mapSets (.inUserMode hg f) hg _

theorem State.stepWith_mapSets (x : Input) :
    (s.mapSets f id).stepWith x = mapNext (State.mapSets f id) (s.stepWith x) := by
  simp only [State.stepWith, State.mapSets_halted, State.mapSets_busDeadlocked, State.mapSets_gie, State.mapSets_lockCount,
    State.mapSets_sleep, State.mapSets_answers, State.cur_mapSets (.inUserMode hg f), State.fetchWord_mapSets,
    State.interruptEntry_mapSets f hg]
  split
  · rfl
  split
  · rfl
  split
  · rfl
  split
  · rfl
  rcases s.fetchWord_cases s.cur.pc with ⟨w, -, -, e | e⟩ | ⟨-, e⟩ | ⟨-, e⟩ <;> rw [e]
  · exact State.runFetched_mapSets f hg x _
  · exact State.runFetched_mapSets f (s := s.countDraws 1) hg x _
  · exact State.runFetched_mapSets f (s := s.countDraws 1) hg x _
  · exact congrArg (fun t => Host.Outcome.next (State.queueWrites t x.later)) (State.fetchFault_mapSets f hg)

/-- A user-mode step in which no host acts does the same whatever the supervisor set holds, and leaves it as it is. -/
theorem step_mapSets (hh : s.input.host = none) :
    step (s.mapSets f id) = mapNext (State.mapSets f id) (step s) := by
  simp only [step, State.cycle, State.mapSets_input, hh, State.popInput_mapSets, State.admitWrites_mapSets]
  exact State.stepWith_mapSets f (by simp [hg]) _

end

/-! ### A supervisor-mode MOV between the sets -/

/-- What a program can name of a register set, taken from `r`. -/
def RegSet.withRegisters (r rs : RegSet) : RegSet := { rs with gen := r.gen, pc := r.pc, flags := r.flags, hi := r.hi }

/-- In supervisor mode any change of the user's registers, PC, flags and software bits will do. -/
theorem OtherSetOnly.inSupervisorMode {gie : Bool} (hg : gie = false) (r : RegSet) :
    OtherSetOnly gie id r.withRegisters :=
  ⟨by simp [hg], fun _ => rfl, fun _ _ => rfl⟩

theorem withUserRegisters_eq_mapSets (r : RegSet) : withUserRegisters r = State.mapSets id r.withRegisters := rfl

theorem exec_mov (dr : RegNum) (b : MovForm) (s : State) :
    exec (.mov dr b) s = .next (if condHolds s.cur.flags (movCond b) then
      (if s.movCrosses b then s.writeUser dr (s.movValue b) else s.writeReg dr (s.movValue b)) else s) :=
  conditional_next _ _ _

/-- MOV with its A bit set, in supervisor mode (R223). -/
theorem exec_mov_to_user {s : State} (hg : s.gie = false) (i j : RegNum) (imm : BitVec 13) :
    exec (.mov i (.std .always true j false imm)) s = .next (s.writeUser i (s.readReg j + imm.signExtend 32)) := by
  simp [exec_mov, movCond, condHolds, State.movCrosses, State.movValue, State.crosses, hg]

/-- MOV with its B bit set, in supervisor mode (R223). -/
theorem exec_mov_from_user {s : State} (hg : s.gie = false) (i j : RegNum) (imm : BitVec 13) :
    exec (.mov i (.std .always false j true imm)) s = .next (s.writeReg i (s.readUser j + imm.signExtend 32)) := by
  simp [exec_mov, movCond, condHolds, State.movCrosses, State.movValue, State.crosses, hg]

theorem exec_mov_to_user_get {s : State} (hg : s.gie = false) (i j : RegNum) (hi : i.toNat < 14) (hj : j.toNat < 14) :
    ∃ t, exec (.mov i (.std .always true j false 0#13)) s = .next t ∧ t.usr.get i = s.sup.get j := by
  refine ⟨_, exec_mov_to_user hg i j 0#13, ?_⟩
  simp [State.writeUser_gen _ _ _ hi, RegSet.get_put _ _ _ _ hi, State.readReg_gen _ _ hj, State.cur_sup _ hg]

theorem exec_mov_from_user_get {s : State} (hg : s.gie = false) (i j : RegNum) (hi : i.toNat < 14) (hj : j.toNat < 14) :
    ∃ t, exec (.mov i (.std .always false j true 0#13)) s = .next t ∧ t.sup.get i = s.usr.get j := by
  refine ⟨_, exec_mov_from_user hg i j 0#13, ?_⟩
  simp [State.writeReg_gen _ _ _ hi, State.setCur_sup, hg, RegSet.get_put _ _ _ _ hi, State.readUser_gen _ _ hj]

end Sys2Proof.Machine

namespace Sys2Proof.Proofs

open Sys2Proof.Machine

/-- Settles O39: the step in user mode and every instruction but MOV in supervisor mode commute with a change of the set
not in use; a supervisor-mode MOV is evaluated in both directions. -/
theorem onlySupervisorMoveCrossesSets : Obligations.OnlySupervisorMoveCrossesSets := by
  refine ⟨fun s r hg hh => ?_, fun i s r hg hi => ?_, fun s i j hg hi hj => ?_⟩
  · exact step_mapSets (fun _ => r) hg hh
  · rw [withUserRegisters_eq_mapSets]
    exact exec_mapSets (.inSupervisorMode hg r) i (.inr hi)
  · exact ⟨exec_mov_to_user_get hg i j hi hj, exec_mov_from_user_get hg i j hi hj⟩

end Sys2Proof.Proofs
end

section
/-! Conditions (R151): the table, VCND's two conditions (R107), and the instructions that have none. -/

namespace Sys2Proof.Machine

/-- VCND's two low bits are the first half's CND field, below a clear top bit (R107). -/
theorem condFirst_bits_toNat (v : BitVec 3) : (condFirst v).bits.toNat = v.toNat % 4 := by
  rw [condFirst, Cond.bits_ofBits]
  exact (BitVec.toNat_append 0#1 (v.extractLsb' 0 2)).trans (by simp)

/-- The second half has the first half's condition when VCND's top bit is set, and none otherwise (R107). -/
theorem condSecond_bits_toNat (v : BitVec 3) :
    (condSecond v).bits.toNat = if 4 ≤ v.toNat then v.toNat % 4 else 0 := by
  have top : v[2] = decide (4 ≤ v.toNat) := BitVec.msb_eq_decide v
  by_cases h : 4 ≤ v.toNat
  · rw [condSecond, if_pos (by simp [top, h]), if_pos h, condFirst_bits_toNat]
  · rw [condSecond, if_neg (by simp [top, h]), if_neg h]
    rfl

/-- A standard LDI executes whatever the flags (R104). -/
theorem exec_ldi_std (dr : RegNum) (imm : BitVec 23) (s : State) :
    exec (.ldi dr (.std imm)) s = .next (s.writeReg dr (imm.signExtend 32)) :=
  conditional_true .always s _ rfl

/-- NOOP does nothing, whatever its unused bits (R280). -/
theorem exec_noop (f : SpecialForm) (s : State) : exec (.noop f) s = .next s := rfl

/-- A standard BREAK stops at itself, whatever its 22 low bits (R281). -/
theorem exec_brk_std (l : Bool) (x : BitVec 22) (s : State) : exec (.brk (.std l x)) s = .next s.breakTrap := rfl

/-- A standard LOCK opens a span, whatever its 22 low bits (R282). -/
theorem exec_lock_std (l : Bool) (x : BitVec 22) (s : State) :
    exec (.lock (.std l x)) s = .next { s with lockCount := Config.lockSpan } := rfl

end Sys2Proof.Machine

namespace Sys2Proof.Proofs

open Sys2Proof.Machine

/-- Settles O13: the table is `condHolds` at the eight codes; a standard LDI, NOOP, BREAK or LOCK has one effect for all
its low bits; each half's condition is read off VCND. -/
theorem conditionsTestTheFlags : Obligations.ConditionsTestTheFlags := by
  refine ⟨fun f => ⟨rfl, rfl, rfl, rfl, rfl, rfl, rfl, rfl⟩, exec_ldi_std, fun l x y s => ⟨?_, ?_, ?_⟩, fun v => ?_⟩
  · rw [exec_noop, exec_noop]
  · rw [exec_brk_std, exec_brk_std]
  · rw [exec_lock_std, exec_lock_std]
  · exact ⟨fun _ => condFirst_bits_toNat v, fun _ => condFirst_bits_toNat v,
      fun _ => condSecond_bits_toNat v, fun _ => condSecond_bits_toNat v⟩

end Sys2Proof.Proofs
end

section
/-! The shared shapes of the ALU instructions (R160): what a result or a comparison that executes leaves behind. -/

namespace Sys2Proof.Machine

open Sys2Proof.Claims

@[simp] theorem State.setCur_setCur (s : State) (rs rs' : RegSet) : (s.setCur rs).setCur rs' = s.setCur rs' := by
  cases hg : s.gie <;> simp [State.setCur, hg]

theorem State.setCur_countDraws (s : State) (k : Nat) (rs : RegSet) :
    (s.countDraws k).setCur rs = (s.setCur rs).countDraws k := by
  cases hg : s.gie <;> simp [State.setCur, State.countDraws, hg]

/-- Putting the flags and the draw counter back undoes a write of the flags (R153). -/
theorem State.writeFlags_restore (s : State) (r : Word) (cv : CarryOverflow) :
    { (s.writeFlags r cv).setCur { (s.writeFlags r cv).cur with flags := s.cur.flags } with draws := s.draws } = s := by
  have hset : (s.writeFlags r cv).setCur { (s.writeFlags r cv).cur with flags := s.cur.flags } = s.countDraws 2 := by
    rw [State.writeFlags_cur, State.writeFlags, State.setCur_countDraws, State.setCur_setCur, State.setCur_self]
  rw [hset]
  rfl

/-- A write of the flags sets them from its result and its row of R158, a flag the row leaves open being drawn. -/
theorem State.flagsSet_writeFlags (s : State) (r : Word) (cv : CarryOverflow) :
    FlagsSet s (s.writeFlags r cv) r cv.c cv.v := by
  refine ⟨?_, ?_, fun b hb => ?_, fun b hb => ?_, s.writeFlags_restore r cv⟩
  · rw [State.writeFlags_cur]; rfl
  · rw [State.writeFlags_cur]; rfl
  · rw [State.writeFlags_cur]; simp [flagsOf, hb]
  · rw [State.writeFlags_cur]; simp [flagsOf, hb]

theorem State.resultWritten_writeResult (s : State) (cnd : Cond) (dr : RegNum) (r : Word) (cv : CarryOverflow) :
    ResultWritten s (s.writeResult cnd dr r cv) dr cnd r cv.c cv.v := by
  unfold ResultWritten State.writeResult
  dsimp only
  split
  · exact State.flagsSet_writeFlags _ r cv
  · rfl

section
variable {r : Word → Word → Word} {cv : Word → Word → CarryOverflow} {dr : RegNum} {f : Form} {s : State}
  (hc : condHolds s.cur.flags (formCond f) = true)
include hc

/-- An ALU instruction that executes writes its result `w`, and flags whose C and V are `c` and `v` (R160). -/
theorem aluOp_resultWritten {w : Word} {c v : Option Bool} (hw : r (s.readReg dr) (s.operandB f) = w)
    (hcv : cv (s.readReg dr) (s.operandB f) = ⟨c, v⟩) :
    ∃ t, aluOp r cv dr f s = .next t ∧ ResultWritten s t dr (formCond f) w c v := by
  have hr := s.resultWritten_writeResult (formCond f) dr (r (s.readReg dr) (s.operandB f))
    (cv (s.readReg dr) (s.operandB f))
  refine ⟨_, conditional_true _ _ _ hc, ?_⟩
  rw [hw, hcv] at hr ⊢
  exact hr

/-- A compare or test that executes, conditional or not, sets the flags of `w` with C and V `c` and `v` (R193, R194). -/
theorem compareOp_flagsSet {w : Word} {c v : Option Bool} (hw : r (s.readReg dr) (s.operandB f) = w)
    (hcv : cv (s.readReg dr) (s.operandB f) = ⟨c, v⟩) :
    ∃ t, compareOp r cv dr f s = .next t ∧ FlagsSet s t w c v := by
  have hf := s.flagsSet_writeFlags (r (s.readReg dr) (s.operandB f)) (cv (s.readReg dr) (s.operandB f))
  refine ⟨_, conditional_true _ _ _ hc, ?_⟩
  rw [hw, hcv] at hf ⊢
  exact hf

/-- An ALU instruction of the rows of R158 that leave C and V open writes a result that is what its rule says. -/
theorem aluOp_open_resultWritten {p : Word → Prop} (hp : p (r (s.readReg dr) (s.operandB f))) :
    ∃ w t, p w ∧ aluOp r openCV dr f s = .next t ∧ ResultWritten s t dr (formCond f) w none none := by
  obtain ⟨t, hnext, hwritten⟩ := aluOp_resultWritten (cv := openCV) hc rfl rfl
  exact ⟨_, t, hp, hnext, hwritten⟩

end

end Sys2Proof.Machine
end

section
/-! SUB, ADD and CMP (R180, R182, R193): the wrapped results and the C and V of R158, from the exact integers; and AND, OR,
XOR and TST (R181, R183, R184, R194), bit by bit. -/

namespace Sys2Proof.Machine

open Sys2Proof.Claims

theorem sub_eq_ofInt (a b : Word) : a - b = BitVec.ofInt 32 (a.toInt - b.toInt) := by
  apply BitVec.eq_of_toInt_eq
  rw [BitVec.toInt_sub, BitVec.toInt_ofInt]

theorem add_eq_ofInt (a b : Word) : a + b = BitVec.ofInt 32 (a.toInt + b.toInt) := by
  rw [BitVec.ofInt_add, BitVec.ofInt_toInt, BitVec.ofInt_toInt]

theorem ssubOverflow_eq_overflows (a b : Word) : a.ssubOverflow b = overflows (a.toInt - b.toInt) := by
  rw [overflows, Bool.decide_or, Bool.or_comm]
  rfl

theorem saddOverflow_eq_overflows (a b : Word) : a.saddOverflow b = overflows (a.toInt + b.toInt) := by
  rw [overflows, Bool.decide_or, Bool.or_comm]
  rfl

/-- V of a difference: the operands differ in sign and the result's sign is not the first one's (R158). -/
theorem subCV_eq (a b : Word) :
    subCV a b = ⟨some (decide (a.toNat < b.toNat)), some (overflows (a.toInt - b.toInt))⟩ := by
  have hv : (a.msb != b.msb && (a - b).msb != a.msb) = a.ssubOverflow b := by
    rw [BitVec.ssubOverflow_eq]
    cases a.msb <;> cases b.msb <;> simp
  rw [subCV, hv, ssubOverflow_eq_overflows]

/-- V of a sum: the operands agree in sign and the result's sign is another (R158). -/
theorem addCV_eq (a b : Word) :
    addCV a b = ⟨some (decide (2 ^ 32 ≤ a.toNat + b.toNat)), some (overflows (a.toInt + b.toInt))⟩ := by
  have hv : (a.msb == b.msb && (a + b).msb != a.msb) = a.saddOverflow b := (BitVec.saddOverflow_eq a b).symm
  rw [addCV, hv, saddOverflow_eq_overflows]

end Sys2Proof.Machine

namespace Sys2Proof.Proofs

open Sys2Proof.Machine

/-- Settles O16, from what an ALU instruction writes and the exact difference and sum. -/
theorem subtractAndAdd : Obligations.SubtractAndAdd := by
  intro dr f s hc
  refine ⟨?_, ?_⟩
  · exact aluOp_resultWritten hc (sub_eq_ofInt _ _) (subCV_eq _ _)
  · exact aluOp_resultWritten hc (add_eq_ofInt _ _) (addCV_eq _ _)

/-- Settles O17, from what an ALU instruction with open C and V writes, bit by bit. -/
theorem bitwiseAndOrXor : Obligations.BitwiseAndOrXor := by
  intro dr f s hc
  refine ⟨?_, ?_, ?_⟩
  · exact aluOp_open_resultWritten hc fun k _ => BitVec.getLsbD_and
  · exact aluOp_open_resultWritten hc fun k _ => BitVec.getLsbD_or
  · exact aluOp_open_resultWritten hc fun k _ => BitVec.getLsbD_xor

/-- Settles O21: CMP sets the flags of SUB's difference, TST those of AND's result. -/
theorem compareAndTestSetOnlyFlags : Obligations.CompareAndTestSetOnlyFlags := by
  intro dr f s hc
  refine ⟨?_, ?_⟩
  · exact compareOp_flagsSet hc (sub_eq_ofInt _ _) (subCV_eq _ _)
  · obtain ⟨t, hnext, hflags⟩ := compareOp_flagsSet (r := fun a b => a &&& b) (cv := openCV) (dr := dr) hc rfl rfl
    exact ⟨_, t, fun _ _ => BitVec.getLsbD_and, hnext, hflags⟩

end Sys2Proof.Proofs
end

section
/-! BREV, POPC and ROL (R190 to R192): their results by the bits of the operands. -/

namespace Sys2Proof.Machine

theorem brevResult_getLsbD (a b : Word) (k : Nat) (hk : k < 32) :
    (brevResult a b).getLsbD k = b.getLsbD (31 - k) := by
  rw [brevResult, BitVec.getLsbD_reverse, BitVec.getMsbD_eq_getLsbD]
  simp [hk]

theorem popcResult_toNat (a b : Word) :
    (popcResult a b).toNat = ((Finset.range 32).filter (fun k => b.getLsbD k = true)).card := by
  have hle : (List.range 32).countP (fun i => b.getLsbD i) ≤ 32 := by
    simpa using List.countP_le_length (p := fun i => b.getLsbD i) (l := List.range 32)
  have hcount : (List.range 32).countP (fun i => b.getLsbD i) = Nat.count (fun k => b.getLsbD k = true) 32 := by
    simp [Nat.count]
  rw [popcResult, BitVec.toNat_ofNat, Nat.mod_eq_of_lt (by omega), hcount, Nat.count_eq_card_filter_range]

/-- ROL's amount is operand B modulo 32 (R192). -/
theorem rolResult_eq (a b : Word) : rolResult a b = a.rotateLeft b.toNat := by
  rw [rolResult, BitVec.extractLsb'_toNat, Nat.shiftRight_zero]
  exact BitVec.rotateLeft_mod_eq_rotateLeft

/-- ROL moves bit `k` up by operand B, around the end of the word (R192). -/
theorem rolResult_getLsbD (a b : Word) (k : Nat) (hk : k < 32) :
    (rolResult a b).getLsbD ((k + b.toNat) % 32) = a.getLsbD k := by
  rw [rolResult_eq, BitVec.getLsbD_rotateLeft]
  by_cases hwrap : (k + b.toNat) % 32 < b.toNat % 32
  · have hsource : 32 - b.toNat % 32 + (k + b.toNat) % 32 = k := by omega
    simp [hwrap, hsource]
  · have hsource : (k + b.toNat) % 32 - b.toNat % 32 = k := by omega
    simp [hwrap, hsource, Nat.mod_lt]

end Sys2Proof.Machine

namespace Sys2Proof.Proofs

open Sys2Proof.Machine

/-- Settles O20, from what an ALU instruction with open C and V writes and the three results by their bits. -/
theorem reverseCountAndRotate : Obligations.ReverseCountAndRotate := by
  intro dr f s hc
  refine ⟨?_, ?_, ?_⟩
  · exact aluOp_open_resultWritten hc (brevResult_getLsbD _ _)
  · exact aluOp_open_resultWritten hc (popcResult_toNat _ _)
  · exact aluOp_open_resultWritten hc (rolResult_getLsbD _ _)

end Sys2Proof.Proofs
end

section
/-! The decoder and the encoder undo each other, on every well-formed term and on every word (R100 to R117). -/

namespace Sys2Proof

open Laws

/-! ### Where the bits below an OpCode stand -/

/-- The slot, and in a compact word the VCND field, of the bits below an OpCode (R106, R107). -/
def LowBits.place : LowBits → Slot × BitVec 3
  | .std _ => (.std, 0#3)
  | .first v _ => (.first, v)
  | .second v _ => (.second, v)

theorem Form.low_place (f : Form) : f.low.place = f.place := by cases f <;> rfl
theorem MovForm.low_place (f : MovForm) : f.low.place = f.place := by cases f <;> rfl
theorem LdiForm.low_place (f : LdiForm) : f.low.place = f.place := by cases f <;> rfl
theorem SpecialForm.low_place (f : SpecialForm) : f.low.place = f.place := by cases f <;> rfl
theorem ReservedForm.low_place (f : ReservedForm) : f.low.place = f.place := by cases f <;> rfl
theorem MovImmForm.low_place (f : MovImmForm) : f.low.place = f.place := by cases f <;> rfl

/-- The fields of an instruction stand where its form does. -/
theorem Instr.fields_place (i : Instr) : i.fields.2.2.place = i.place := by
  cases i
  case mov dr f => exact f.low_place
  case ldi dr f => exact f.low_place
  case undefinedMovImm dr f => exact f.low_place
  case noop f | brk f | lock f | illegal1B f | illegal1C f | illegal1D f => exact f.low_place
  case reserved1E dr f | reserved1F dr f => exact f.low_place
  all_goals exact Form.low_place _

theorem Instr.fields_of_std {i : Instr} (h : i.place.1 = .std) : ∃ dr op low, i.fields = (dr, op, .std low) := by
  rw [← i.fields_place] at h
  generalize i.fields = fields at h ⊢
  obtain ⟨dr, op, low | low | low⟩ := fields
  · exact ⟨dr, op, low, rfl⟩
  all_goals cases h

theorem Instr.fields_of_first {i : Instr} {v : BitVec 3} (h : i.place = (.first, v)) :
    ∃ dr op low, i.fields = (dr, op, .first v low) := by
  rw [← i.fields_place] at h
  generalize i.fields = fields at h ⊢
  obtain ⟨dr, op, low | ⟨v, low⟩ | low⟩ := fields <;> cases h
  exact ⟨dr, op, low, rfl⟩

theorem Instr.fields_of_second {i : Instr} {v : BitVec 3} (h : i.place = (.second, v)) :
    ∃ dr op low, i.fields = (dr, op, .second v low) := by
  rw [← i.fields_place] at h
  generalize i.fields = fields at h ⊢
  obtain ⟨dr, op, low | low | ⟨v, low⟩⟩ := fields <;> cases h
  exact ⟨dr, op, low, rfl⟩

/-! ### Decoding an encoded word -/

/-- Every instruction is read back from its own encoding, at its place. -/
theorem decodesBack (i : Instr) : DecodesBack.Statement i :=
  match i with
  | .sub dr f => DecodesBack.sub dr f
  | .and dr f => DecodesBack.and dr f
  | .add dr f => DecodesBack.add dr f
  | .or dr f => DecodesBack.or dr f
  | .xor dr f => DecodesBack.xor dr f
  | .lsr dr f => DecodesBack.lsr dr f
  | .lsl dr f => DecodesBack.lsl dr f
  | .asr dr f => DecodesBack.asr dr f
  | .ldihi dr f => DecodesBack.ldihi dr f
  | .ldilo dr f => DecodesBack.ldilo dr f
  | .mpyu dr f => DecodesBack.mpyu dr f
  | .mpys dr f => DecodesBack.mpys dr f
  | .brev dr f => DecodesBack.brev dr f
  | .popc dr f => DecodesBack.popc dr f
  | .rol dr f => DecodesBack.rol dr f
  | .mov dr f => DecodesBack.mov dr f
  | .cmp dr f => DecodesBack.cmp dr f
  | .tst dr f => DecodesBack.tst dr f
  | .lod dr f => DecodesBack.lod dr f
  | .sto dr f => DecodesBack.sto dr f
  | .divu dr f => DecodesBack.divu dr f
  | .divs dr f => DecodesBack.divs dr f
  | .ldi dr f => DecodesBack.ldi dr f
  | .fpadd dr f => DecodesBack.fpadd dr f
  | .fpsub dr f => DecodesBack.fpsub dr f
  | .fpmpy dr f => DecodesBack.fpmpy dr f
  | .fpdiv dr f => DecodesBack.fpdiv dr f
  | .fpcvt dr f => DecodesBack.fpcvt dr f
  | .fpint dr f => DecodesBack.fpint dr f
  | .noop f => DecodesBack.noop f
  | .brk f => DecodesBack.brk f
  | .lock f => DecodesBack.lock f
  | .illegal1B f => DecodesBack.illegal1B f
  | .illegal1C f => DecodesBack.illegal1C f
  | .illegal1D f => DecodesBack.illegal1D f
  | .reserved1E dr f => DecodesBack.reserved1E dr f
  | .reserved1F dr f => DecodesBack.reserved1F dr f
  | .undefinedMovImm dr f => DecodesBack.undefinedMovImm dr f

theorem decodeWord_of_std {w : Word} (h : w.flag 31 = false) : decodeWord w = .single (decodeStd w) := by
  simp [decodeWord, h]

theorem decodeWord_of_compact {w : Word} (h : w.flag 31 = true) :
    decodeWord w = .pair (decodeFirst w) (decodeSecond w) := by
  simp [decodeWord, h]

theorem stdWord_flag31 (dr : RegNum) (op : BitVec 5) (low : BitVec 22) : (stdWord dr op low).flag 31 = false := by
  simp [Word.flag, stdWord_bit31]

section
variable (dr1 : RegNum) (op1 : BitVec 5) (v : BitVec 3) (low1 : BitVec 5) (dr2 : RegNum) (op2 low2 : BitVec 5)

theorem compactWord_flag31 : (compactWord dr1 op1 v low1 dr2 op2 low2).flag 31 = true := by
  simp [Word.flag, compactWord_bit31]

/-- The first half is read from its own bits and VCND only (R106). -/
theorem decodeFirst_compactWord :
    decodeFirst (compactWord dr1 op1 v low1 dr2 op2 low2) = decodeFirst (encodeFields (dr1, op1, .first v low1)) := by
  simp only [decodeFirst, encodeFields, Word.flag, compactWord_dr1, compactWord_op1, compactWord_vcnd, compactWord_low1,
    compactWord_low1_f4, compactWord_sel1, compactWord_blank1, compactWord_drBit1]

/-- The second half is read from its own bits and VCND only (R106). -/
theorem decodeSecond_compactWord :
    decodeSecond (compactWord dr1 op1 v low1 dr2 op2 low2) = decodeSecond (encodeFields (dr2, op2, .second v low2)) := by
  simp only [decodeSecond, encodeFields, Word.flag, compactWord_dr2, compactWord_op2, compactWord_vcnd, compactWord_low2,
    compactWord_low2_f4, compactWord_sel2, compactWord_blank2, compactWord_drBit2]

end

theorem decodeWord_encodeWord_single {i : Instr} (h : i.place.1 = .std) :
    decodeWord (encodeWord (.single i)) = .single (decodeAt i.place.1 (encode i)) := by
  obtain ⟨dr, op, low, hf⟩ := Instr.fields_of_std h
  rw [h]
  refine decodeWord_of_std ?_
  rw [encodeWord, encode, hf]
  exact stdWord_flag31 dr op low

theorem decodeWord_encodeWord_pair {i j : Instr} {v : BitVec 3} (hi : i.place = (.first, v))
    (hj : j.place = (.second, v)) :
    decodeWord (encodeWord (.pair i j)) = .pair (decodeAt i.place.1 (encode i)) (decodeAt j.place.1 (encode j)) := by
  obtain ⟨dr1, op1, low1, hfi⟩ := Instr.fields_of_first hi
  obtain ⟨dr2, op2, low2, hfj⟩ := Instr.fields_of_second hj
  have hw : encodeWord (.pair i j) = compactWord dr1 op1 v low1 dr2 op2 low2 := by simp [encodeWord, hfi, hfj]
  rw [hw, decodeWord_of_compact (compactWord_flag31 _ _ _ _ _ _ _), decodeFirst_compactWord, decodeSecond_compactWord,
    hi, hj, encode, encode, hfi, hfj]
  rfl

/-! ### Encoding a decoded word -/

/-- Every group of forms that a word or half with these fields offers the opcode map has that word's bits. -/
structure RowForms.Hold (F : RowForms) (dr : RegNum) (op : BitVec 5) (low : LowBits) : Prop where
  two : F.two.low = low
  mov : F.mov.fields = (dr, 0x0f#5, low)
  movWellFormed : F.mov.wellFormed = true
  ldi : F.ldi.low = low
  ldiOpcode : F.ldi.opcode = 0b1011#4 ++ op.extractLsb' 0 1
  special : F.special.low = low
  specialDr : F.special.dr = 0b111#3 ++ dr.extractLsb' 0 1
  reserved : F.reserved.low = low

/-- The special registers are CC and PC, 111 and a low bit (R105). -/
theorem RegNum.special_dr {dr : RegNum} (h : RegNum.special dr = true) : 0b111#3 ++ dr.extractLsb' 0 1 = dr := by
  revert dr; decide

section
variable {F : RowForms} {dr : RegNum} {op : BitVec 5} {low : LowBits}

theorem RowForms.Hold.specialRow_fields (h : F.Hold dr op low) {i j : Instr}
    (hi : i.fields = (F.special.dr, op, F.special.low)) (hj : j.fields = (dr, op, F.two.low)) :
    (if RegNum.special dr = true then i else j).fields = (dr, op, low) := by
  split
  case isTrue hs => rw [hi, h.specialDr, RegNum.special_dr hs, h.special]
  case isFalse => rw [hj, h.two]

/-- The instruction the opcode map finds has the fields the map was asked with (R112). -/
theorem opcodeRow_fields (h : F.Hold dr op low) : (opcodeRow op dr F).fields = (dr, op, low) := by
  have hn : op.toNat < 32 := op.isLt
  have hop : op = BitVec.ofNat 5 op.toNat := by simp
  unfold opcodeRow
  generalize op.toNat = n at hn hop
  subst hop
  split
  case h_16 => exact h.mov
  case h_23 | h_24 => exact congrArg₂ (fun o l => (dr, o, l)) h.ldiOpcode h.ldi
  case h_25 | h_26 | h_27 | h_28 | h_29 | h_30 => exact h.specialRow_fields rfl rfl
  case h_31 => exact congrArg (fun l => (dr, _, l)) h.reserved
  case h_32 =>
    obtain rfl : n = 31 := by grind
    exact congrArg (fun l => (dr, _, l)) h.reserved
  all_goals exact congrArg (fun l => (dr, _, l)) h.two

/-- The opcode map gives a floating-point instruction to DR 0 to 13 only (R105). -/
theorem opcodeRow_wellFormed (h : F.mov.wellFormed = true) : (opcodeRow op dr F).wellFormed = true := by
  unfold opcodeRow
  split
  case h_16 => exact h
  case h_25 | h_26 | h_27 | h_28 | h_29 | h_30 => cases hs : RegNum.special dr <;> simp [Instr.wellFormed, hs]
  all_goals rfl

end

theorem Word.ofBool_flag (w : Word) (i : Nat) : BitVec.ofBool (w.flag i) = w.extractLsb' i 1 := by
  unfold Word.flag
  generalize w.extractLsb' i 1 = b
  revert b; decide

theorem Word.extractLsb'_flag_true {w : Word} {i : Nat} (h : w.flag i = true) : w.extractLsb' i 1 = 1#1 := by
  rw [← Word.ofBool_flag, h]; rfl

theorem Word.extractLsb'_flag_false {w : Word} {i : Nat} (h : w.flag i = false) : w.extractLsb' i 1 = 0#1 := by
  rw [← Word.ofBool_flag, h]; rfl

/-- What a standard word offers the opcode map (R101 to R105). -/
def stdRow (w : Word) : RowForms :=
  { two := if w.flag 18 then .stdReg (Cond.ofBits (w.extractLsb' 19 3)) (w.extractLsb' 14 4) (w.extractLsb' 0 14)
      else .stdImm (Cond.ofBits (w.extractLsb' 19 3)) (w.extractLsb' 0 18)
    mov := .mov (w.extractLsb' 27 4) (.std (Cond.ofBits (w.extractLsb' 19 3)) (w.flag 18) (w.extractLsb' 14 4) (w.flag 13)
      (w.extractLsb' 0 13))
    ldi := .std (w.extractLsb' 0 23)
    special := .std (w.flag 27) (w.extractLsb' 0 22)
    reserved := .std (w.extractLsb' 0 22) }

theorem decodeStd_eq (w : Word) : decodeStd w = opcodeRow (w.extractLsb' 22 5) (w.extractLsb' 27 4) (stdRow w) := rfl

/-- What the first half of a compact word offers the opcode map (R106, R109, R110). -/
def firstRow (w : Word) : RowForms :=
  { two := if w.flag 18 then .c1Reg (w.extractLsb' 19 3) (w.extractLsb' 14 4)
      else .c1Imm (w.extractLsb' 19 3) (w.extractLsb' 14 4)
    mov := if w.flag 18 then .mov (w.extractLsb' 27 4) (.c1 (w.extractLsb' 19 3) (w.extractLsb' 14 4))
      else .undefinedMovImm (w.extractLsb' 27 4) (.c1 (w.extractLsb' 19 3) (w.extractLsb' 14 4))
    ldi := .c1 (w.flag 22) (w.extractLsb' 19 3) (w.extractLsb' 14 5)
    special := .c1 (w.flag 27) (w.extractLsb' 19 3) (w.extractLsb' 14 5)
    reserved := .c1 (w.extractLsb' 19 3) (w.extractLsb' 14 5) }

theorem decodeFirst_eq (w : Word) :
    decodeFirst w = opcodeRow (w.extractLsb' 22 5) (w.extractLsb' 27 4) (firstRow w) := rfl

/-- What the second half of a compact word offers the opcode map (R106, R109, R110). -/
def secondRow (w : Word) : RowForms :=
  { two := if w.flag 4 then .c2Reg (w.extractLsb' 19 3) (w.extractLsb' 0 4)
      else .c2Imm (w.extractLsb' 19 3) (w.extractLsb' 0 4)
    mov := if w.flag 4 then .mov (w.extractLsb' 10 4) (.c2 (w.extractLsb' 19 3) (w.extractLsb' 0 4))
      else .undefinedMovImm (w.extractLsb' 10 4) (.c2 (w.extractLsb' 19 3) (w.extractLsb' 0 4))
    ldi := .c2 (w.flag 5) (w.extractLsb' 19 3) (w.extractLsb' 0 5)
    special := .c2 (w.flag 10) (w.extractLsb' 19 3) (w.extractLsb' 0 5)
    reserved := .c2 (w.extractLsb' 19 3) (w.extractLsb' 0 5) }

theorem decodeSecond_eq (w : Word) :
    decodeSecond w = opcodeRow (w.extractLsb' 5 5) (w.extractLsb' 10 4) (secondRow w) := rfl

theorem extractLsb'_extractLsb'_of_le {n : Nat} (x : BitVec n) (i m j k : Nat) (h : j + k ≤ m) :
    (x.extractLsb' i m).extractLsb' j k = x.extractLsb' (i + j) k := by
  apply BitVec.eq_of_getLsbD_eq
  intro l hl
  simp [hl, show j + l < m by omega, Nat.add_assoc]

/-- Bits read from one place to the next, side by side, are the bits read at once. -/
theorem append_extractLsb' {n a b k m : Nat} (x : BitVec n) (h : a = b + k) :
    x.extractLsb' a m ++ x.extractLsb' b k = x.extractLsb' b (m + k) :=
  BitVec.extractLsb'_append_extractLsb'_eq_extractLsb' h

theorem stdRow_two_low (w : Word) : (stdRow w).two.low = .std (w.extractLsb' 0 22) := by
  cases h : w.flag 18
  case false =>
    simp (disch := omega) only [stdRow, h, Bool.false_eq_true, if_false, Form.low, Cond.bits_ofBits,
      ← Word.extractLsb'_flag_false h, append_extractLsb']
  case true =>
    simp (disch := omega) only [stdRow, h, if_true, Form.low, Cond.bits_ofBits, ← Word.extractLsb'_flag_true h,
      append_extractLsb']

theorem stdRow_hold (w : Word) :
    (stdRow w).Hold (w.extractLsb' 27 4) (w.extractLsb' 22 5) (.std (w.extractLsb' 0 22)) where
  two := stdRow_two_low w
  mov := by
    simp (disch := omega) only [stdRow, Instr.fields, MovForm.low, Cond.bits_ofBits, Word.ofBool_flag, append_extractLsb']
  movWellFormed := rfl
  ldi := congrArg LowBits.std (extractLsb'_extractLsb'_of_le w 0 23 0 22 (by omega))
  ldiOpcode := by simp (disch := omega) only [stdRow, LdiForm.opcode, extractLsb'_extractLsb'_of_le]
  special := rfl
  specialDr := by simp (disch := omega) only [stdRow, SpecialForm.dr, Word.ofBool_flag, extractLsb'_extractLsb'_of_le]
  reserved := rfl

theorem firstRow_hold (w : Word) :
    (firstRow w).Hold (w.extractLsb' 27 4) (w.extractLsb' 22 5) (.first (w.extractLsb' 19 3) (w.extractLsb' 14 5)) where
  two := by
    cases h : w.flag 18
    · simp (disch := omega) only [firstRow, h, Bool.false_eq_true, if_false, Form.low, ← Word.extractLsb'_flag_false h,
        append_extractLsb']
    · simp (disch := omega) only [firstRow, h, if_true, Form.low, ← Word.extractLsb'_flag_true h, append_extractLsb']
  mov := by
    cases h : w.flag 18
    · simp (disch := omega) only [firstRow, h, Bool.false_eq_true, if_false, Instr.fields, MovImmForm.low,
        ← Word.extractLsb'_flag_false h, append_extractLsb']
    · simp (disch := omega) only [firstRow, h, if_true, Instr.fields, MovForm.low, ← Word.extractLsb'_flag_true h,
        append_extractLsb']
  movWellFormed := by cases h : w.flag 18 <;> simp only [firstRow, h] <;> rfl
  ldi := rfl
  ldiOpcode := by
    simp (disch := omega) only [firstRow, LdiForm.opcode, Word.ofBool_flag, extractLsb'_extractLsb'_of_le]
  special := rfl
  specialDr := by
    simp (disch := omega) only [firstRow, SpecialForm.dr, Word.ofBool_flag, extractLsb'_extractLsb'_of_le]
  reserved := rfl

theorem secondRow_hold (w : Word) :
    (secondRow w).Hold (w.extractLsb' 10 4) (w.extractLsb' 5 5) (.second (w.extractLsb' 19 3) (w.extractLsb' 0 5)) where
  two := by
    cases h : w.flag 4
    · simp (disch := omega) only [secondRow, h, Bool.false_eq_true, if_false, Form.low, ← Word.extractLsb'_flag_false h,
        append_extractLsb']
    · simp (disch := omega) only [secondRow, h, if_true, Form.low, ← Word.extractLsb'_flag_true h, append_extractLsb']
  mov := by
    cases h : w.flag 4
    · simp (disch := omega) only [secondRow, h, Bool.false_eq_true, if_false, Instr.fields, MovImmForm.low,
        ← Word.extractLsb'_flag_false h, append_extractLsb']
    · simp (disch := omega) only [secondRow, h, if_true, Instr.fields, MovForm.low, ← Word.extractLsb'_flag_true h,
        append_extractLsb']
  movWellFormed := by cases h : w.flag 4 <;> simp only [secondRow, h] <;> rfl
  ldi := rfl
  ldiOpcode := by
    simp (disch := omega) only [secondRow, LdiForm.opcode, Word.ofBool_flag, extractLsb'_extractLsb'_of_le]
  special := rfl
  specialDr := by
    simp (disch := omega) only [secondRow, SpecialForm.dr, Word.ofBool_flag, extractLsb'_extractLsb'_of_le]
  reserved := rfl

theorem decodeStd_fields (w : Word) :
    (decodeStd w).fields = (w.extractLsb' 27 4, w.extractLsb' 22 5, .std (w.extractLsb' 0 22)) :=
  opcodeRow_fields (stdRow_hold w)

theorem decodeFirst_fields (w : Word) :
    (decodeFirst w).fields = (w.extractLsb' 27 4, w.extractLsb' 22 5, .first (w.extractLsb' 19 3) (w.extractLsb' 14 5)) :=
  opcodeRow_fields (firstRow_hold w)

theorem decodeSecond_fields (w : Word) :
    (decodeSecond w).fields = (w.extractLsb' 10 4, w.extractLsb' 5 5, .second (w.extractLsb' 19 3) (w.extractLsb' 0 5)) :=
  opcodeRow_fields (secondRow_hold w)

theorem decodeStd_wellFormed (w : Word) : (decodeStd w).wellFormed = true :=
  opcodeRow_wellFormed (stdRow_hold w).movWellFormed

theorem decodeFirst_wellFormed (w : Word) : (decodeFirst w).wellFormed = true :=
  opcodeRow_wellFormed (firstRow_hold w).movWellFormed

theorem decodeSecond_wellFormed (w : Word) : (decodeSecond w).wellFormed = true :=
  opcodeRow_wellFormed (secondRow_hold w).movWellFormed

theorem decodeStd_place (w : Word) : (decodeStd w).place = (.std, 0#3) := by
  rw [← Instr.fields_place, decodeStd_fields]; rfl

theorem decodeFirst_place (w : Word) : (decodeFirst w).place = (.first, w.extractLsb' 19 3) := by
  rw [← Instr.fields_place, decodeFirst_fields]; rfl

theorem decodeSecond_place (w : Word) : (decodeSecond w).place = (.second, w.extractLsb' 19 3) := by
  rw [← Instr.fields_place, decodeSecond_fields]; rfl

theorem decodeWord_wellFormed (w : Word) : (decodeWord w).wellFormed = true := by
  cases h : w.flag 31
  · rw [decodeWord_of_std h]
    simp [CodeWord.wellFormed, decodeStd_wellFormed, decodeStd_place]
  · rw [decodeWord_of_compact h]
    simp [CodeWord.wellFormed, decodeFirst_wellFormed, decodeSecond_wellFormed, decodeFirst_place, decodeSecond_place]

theorem encodeWord_decodeWord (w : Word) : encodeWord (decodeWord w) = w := by
  cases h : w.flag 31
  case false =>
    rw [decodeWord_of_std h, encodeWord, encode, decodeStd_fields, encodeFields, stdWord]
    simp (disch := omega) only [← Word.extractLsb'_flag_false h, append_extractLsb']
    exact BitVec.extractLsb'_eq_self
  case true =>
    simp only [decodeWord_of_compact h, encodeWord, decodeFirst_fields, decodeSecond_fields, compactWord]
    simp (disch := omega) only [← Word.extractLsb'_flag_true h, append_extractLsb']
    exact BitVec.extractLsb'_eq_self

end Sys2Proof

namespace Sys2Proof.Proofs

/-- Settles O1: each half or standard word of a well-formed term is read back at its place. -/
theorem decodeOfEncodeIsIdentity : Obligations.DecodeOfEncodeIsIdentity := by
  intro c hc
  cases c with
  | single i =>
    obtain ⟨hi, hplace⟩ : i.wellFormed = true ∧ i.place.1 = .std := by simpa [CodeWord.wellFormed] using hc
    rw [decodeWord_encodeWord_single hplace, decodesBack i hi]
  | pair i j =>
    obtain ⟨⟨⟨⟨hi, hj⟩, hfirst⟩, hsecond⟩, hv⟩ : (((i.wellFormed = true ∧ j.wellFormed = true) ∧ i.place.1 = .first) ∧
      j.place.1 = .second) ∧ i.place.2 = j.place.2 := by simpa [CodeWord.wellFormed] using hc
    rw [decodeWord_encodeWord_pair (v := i.place.2) (Prod.ext hfirst rfl) (Prod.ext hsecond hv.symm), decodesBack i hi,
      decodesBack j hj]

/-- Settles O2, from the fields of what each place of a word decodes to. -/
theorem encodeOfDecodeIsIdentity : Obligations.EncodeOfDecodeIsIdentity :=
  fun w => ⟨decodeWord_wellFormed w, encodeWord_decodeWord w⟩

end Sys2Proof.Proofs
end

section
/-! The layouts of words by their bit numbers (R101 to R110), and which words are illegal (R113). -/

namespace Sys2Proof

open Sys2Proof.Claims

/-! ### Bits by their numbers -/

theorem extractLsb'_toNat_eq_bitsOf (w : Word) (lo n : Nat) : (w.extractLsb' lo n).toNat = bitsOf w lo n := by
  rw [BitVec.extractLsb'_toNat, Nat.shiftRight_eq_div_pow, bitsOf]

theorem ofNat_bitsOf (w : Word) (lo n : Nat) : BitVec.ofNat n (bitsOf w lo n) = w.extractLsb' lo n := by
  rw [← extractLsb'_toNat_eq_bitsOf, BitVec.ofNat_toNat, BitVec.setWidth_eq]

theorem flag_eq_decide_bitsOf (w : Word) (i : Nat) : decide (bitsOf w i 1 = 1) = w.flag i := by
  rw [← extractLsb'_toNat_eq_bitsOf, Word.flag]
  generalize w.extractLsb' i 1 = b
  revert b; decide

theorem flag_of_bitsOf_zero {w : Word} {i : Nat} (h : bitsOf w i 1 = 0) : w.flag i = false := by
  rw [← flag_eq_decide_bitsOf, h]; rfl

theorem flag_of_bitsOf_one {w : Word} {i : Nat} (h : bitsOf w i 1 = 1) : w.flag i = true := by
  rw [← flag_eq_decide_bitsOf, h]; rfl

theorem ite_bitsOf_zero {α : Type} (w : Word) (i : Nat) (x y : α) :
    (if bitsOf w i 1 = 0 then x else y) = if w.flag i then y else x := by
  obtain h | h : bitsOf w i 1 = 0 ∨ bitsOf w i 1 = 1 := Nat.mod_two_eq_zero_or_one (w.toNat / 2 ^ i)
  · rw [if_pos h, flag_of_bitsOf_zero h]; rfl
  · rw [if_neg (by omega), flag_of_bitsOf_one h, if_pos rfl]

/-- 111 in the upper three bits of DR names CC or PC (R105). -/
theorem special_iff_le {dr : RegNum} : RegNum.special dr = decide (14 ≤ dr.toNat) := by
  revert dr; decide

theorem special_of_bitsOf {w : Word} {lo : Nat} (h : bitsOf w (lo + 1) 3 = 7) :
    RegNum.special (w.extractLsb' lo 4) = true := by
  rw [special_iff_le, extractLsb'_toNat_eq_bitsOf]
  simp only [bitsOf, Nat.pow_succ, ← Nat.div_div_eq_div_mul] at h ⊢
  exact decide_eq_true (by omega)

/-! ### The opcode map by OpCode -/

section
variable {op : BitVec 5} {dr : RegNum} {F : RowForms}

theorem opcodeRow_operandB {mk : RegNum → Form → Instr} (h : operandBInstr op.toNat = some mk) :
    opcodeRow op dr F = mk dr F.two := by
  unfold operandBInstr at h
  split at h
  case h_22 => cases h
  all_goals
    rename_i hop
    obtain rfl := Option.some.inj h
    simp only [opcodeRow, hop]

theorem opcodeRow_mov (h : op.toNat = 0xf) : opcodeRow op dr F = F.mov := by simp only [opcodeRow, h]

/-- Both opcodes that begin with 1011 are LDI (R104). -/
theorem opcodeRow_ldi (h : op.toNat / 2 = 0xb) : opcodeRow op dr F = .ldi dr F.ldi := by
  obtain h | h : op.toNat = 0x16 ∨ op.toNat = 0x17 := by omega
  · simp only [opcodeRow, h]
  · simp only [opcodeRow, h]

theorem opcodeRow_noop (hdr : RegNum.special dr = true) (h : op.toNat = 0x18) : opcodeRow op dr F = .noop F.special := by
  simp only [opcodeRow, h, hdr, if_true]

theorem opcodeRow_brk (hdr : RegNum.special dr = true) (h : op.toNat = 0x19) : opcodeRow op dr F = .brk F.special := by
  simp only [opcodeRow, h, hdr, if_true]

theorem opcodeRow_lock (hdr : RegNum.special dr = true) (h : op.toNat = 0x1a) : opcodeRow op dr F = .lock F.special := by
  simp only [opcodeRow, h, hdr, if_true]

/-- The illegal encodings by OpCode and DR (R113). -/
def illegalBits (op dr : Nat) : Bool :=
  decide (op = 0x1e ∨ op = 0x1f ∨ (0x18 ≤ op ∧ op ≤ 0x1d ∧ dr < 14) ∨ (0x1b ≤ op ∧ op ≤ 0x1d))

theorem opcodeRow_illegal (hmov : F.mov.illegal = false) : (opcodeRow op dr F).illegal = illegalBits op.toNat dr.toNat := by
  unfold opcodeRow
  split
  case h_16 => simp [*, illegalBits]
  case h_25 | h_26 | h_27 | h_28 | h_29 | h_30 =>
    rw [special_iff_le]
    split <;> simp_all [illegalBits, Instr.illegal]
  case h_32 =>
    simp only [imp_false] at *
    have hop : op.toNat = 0x1f := by omega
    simp [hop, illegalBits, Instr.illegal]
  all_goals simp [*, illegalBits, Instr.illegal]

end

/-- The upper four bits of an OpCode (R104). -/
theorem toNat_div_two_of_bitsOf {w : Word} {lo n : Nat} (h : bitsOf w (lo + 1) 4 = n) :
    (w.extractLsb' lo 5).toNat / 2 = n := by
  rw [extractLsb'_toNat_eq_bitsOf, ← h]
  simp only [bitsOf, Nat.pow_succ, ← Nat.div_div_eq_div_mul]
  omega

theorem toNat_of_bitsOf {w : Word} {lo m n : Nat} (h : bitsOf w lo m = n) : (w.extractLsb' lo m).toNat = n := by
  rw [extractLsb'_toNat_eq_bitsOf, h]

/-- The row of the OpCode at bits `lo` up, by its number: the same for a standard word and for each half of a compact
one (R104, R105, R112). -/
theorem opcodeRow_layout {w : Word} {dr : RegNum} {F : RowForms} {lo : Nat} :
    (∀ mk, operandBInstr (bitsOf w lo 5) = some mk → opcodeRow (w.extractLsb' lo 5) dr F = mk dr F.two) ∧
    (bitsOf w (lo + 1) 4 = 0xb → opcodeRow (w.extractLsb' lo 5) dr F = .ldi dr F.ldi) ∧
    (bitsOf w lo 5 = 0xf → opcodeRow (w.extractLsb' lo 5) dr F = F.mov) ∧
    (RegNum.special dr = true →
      (bitsOf w lo 5 = 0x18 → opcodeRow (w.extractLsb' lo 5) dr F = .noop F.special) ∧
      (bitsOf w lo 5 = 0x19 → opcodeRow (w.extractLsb' lo 5) dr F = .brk F.special) ∧
      (bitsOf w lo 5 = 0x1a → opcodeRow (w.extractLsb' lo 5) dr F = .lock F.special)) := by
  refine ⟨fun mk h => opcodeRow_operandB (by rwa [extractLsb'_toNat_eq_bitsOf]),
    fun h => opcodeRow_ldi (toNat_div_two_of_bitsOf h), fun h => opcodeRow_mov (toNat_of_bitsOf h), fun hs => ?_⟩
  exact ⟨fun h => opcodeRow_noop hs (toNat_of_bitsOf h), fun h => opcodeRow_brk hs (toNat_of_bitsOf h),
    fun h => opcodeRow_lock hs (toNat_of_bitsOf h)⟩

theorem decodeStd_illegal (w : Word) : (decodeStd w).illegal = illegalBits (bitsOf w 22 5) (bitsOf w 27 4) := by
  rw [decodeStd_eq, opcodeRow_illegal rfl, extractLsb'_toNat_eq_bitsOf, extractLsb'_toNat_eq_bitsOf]

theorem decodeFirst_illegal (w : Word) : (decodeFirst w).illegal = illegalBits (bitsOf w 22 5) (bitsOf w 27 4) := by
  have hmov : (firstRow w).mov.illegal = false := by cases h : w.flag 18 <;> simp only [firstRow, h] <;> rfl
  rw [decodeFirst_eq, opcodeRow_illegal hmov, extractLsb'_toNat_eq_bitsOf, extractLsb'_toNat_eq_bitsOf]

theorem decodeSecond_illegal (w : Word) : (decodeSecond w).illegal = illegalBits (bitsOf w 5 5) (bitsOf w 10 4) := by
  have hmov : (secondRow w).mov.illegal = false := by cases h : w.flag 4 <;> simp only [secondRow, h] <;> rfl
  rw [decodeSecond_eq, opcodeRow_illegal hmov, extractLsb'_toNat_eq_bitsOf, extractLsb'_toNat_eq_bitsOf]

end Sys2Proof

namespace Sys2Proof.Proofs

open Sys2Proof.Machine

/-- Settles O3: operand B is its definition, and a standard word's row is its OpCode's in the opcode map. -/
theorem standardWordsHoldTheirFields : Obligations.StandardWordsHoldTheirFields := by
  refine ⟨fun s cnd imm => rfl, fun s cnd br imm => rfl, fun w mk h31 hop => ?_⟩
  simp only [ofNat_bitsOf, ite_bitsOf_zero]
  rw [decodeWord_of_std (flag_of_bitsOf_zero h31)]
  exact congrArg CodeWord.single (opcodeRow_layout.1 mk hop)

/-- Settles O4: each half's row is its OpCode's in the opcode map; the bits decoding ignores are in no meaning. -/
theorem compactWordsHoldTwoHalves : Obligations.CompactWordsHoldTwoHalves := by
  refine ⟨fun w h31 => ?_, fun dr v x s => ⟨rfl, rfl⟩, fun l l' v v' x x' s => ⟨rfl, rfl, rfl, rfl, rfl, rfl⟩⟩
  simp only [ofNat_bitsOf, ite_bitsOf_zero, flag_eq_decide_bitsOf]
  refine ⟨decodeFirst w, decodeSecond w, decodeWord_of_compact (flag_of_bitsOf_one h31), ?_⟩
  obtain ⟨htwo1, hldi1, hmov1, hspecial1⟩ :=
    opcodeRow_layout (w := w) (dr := w.extractLsb' 27 4) (F := firstRow w) (lo := 22)
  obtain ⟨htwo2, hldi2, hmov2, hspecial2⟩ :=
    opcodeRow_layout (w := w) (dr := w.extractLsb' 10 4) (F := secondRow w) (lo := 5)
  exact ⟨htwo1, hldi1, hmov1, fun h => hspecial1 (special_of_bitsOf h), htwo2, hldi2, hmov2,
    fun h => hspecial2 (special_of_bitsOf h)⟩

/-- Settles O5, from the rows of the opcode map. -/
theorem moveLoadImmediateAndSpecialWords : Obligations.MoveLoadImmediateAndSpecialWords := by
  intro w h31
  simp only [ofNat_bitsOf, flag_eq_decide_bitsOf, decodeWord_of_std (flag_of_bitsOf_zero h31)]
  obtain ⟨-, hldi, hmov, hspecial⟩ :=
    opcodeRow_layout (w := w) (dr := w.extractLsb' 27 4) (F := stdRow w) (lo := 22)
  refine ⟨fun h => congrArg CodeWord.single (hmov h), fun h => congrArg CodeWord.single (hldi h), fun h => ?_⟩
  obtain ⟨hnoop, hbrk, hlock⟩ := hspecial (special_of_bitsOf h)
  exact ⟨fun h => ⟨_, _, congrArg CodeWord.single (hnoop h)⟩, fun h => ⟨_, _, congrArg CodeWord.single (hbrk h)⟩,
    fun h => ⟨_, _, congrArg CodeWord.single (hlock h)⟩⟩

/-- Settles O6, from which rows of the opcode map are illegal. -/
theorem illegalWordsByTheirBits : Obligations.IllegalWordsByTheirBits := by
  intro w
  refine ⟨fun h31 => ?_, fun h31 => ?_⟩
  · rw [decodeWord_of_std (flag_of_bitsOf_zero h31)]
    exact decodeStd_illegal w
  · rw [decodeWord_of_compact (flag_of_bitsOf_one h31), CodeWord.illegal, decodeFirst_illegal, decodeSecond_illegal]
    rfl

/-- Settles O7, by decoding the eight words. -/
theorem printedWordsDecode : Obligations.PrintedWordsDecode := by
  refine ⟨?_, ?_, ?_, ?_, ?_, ?_, ?_, ?_⟩ <;> decide

end Sys2Proof.Proofs
end

section
/-! What an instruction does, with the registers it names: the frames of registers, flags, memory and mode (R20, R153). -/

namespace Sys2Proof.Machine

open Sys2Proof.Claims

/-! ### Modes, halt and exception bits -/

/-- The exception bits of a register set (R35, R37). -/
structure Causes where
  ill : Bool
  buserr : Bool
  dive : Bool
  fpe : Bool

def RegSet.causes (rs : RegSet) : Causes := { ill := rs.ill, buserr := rs.buserr, dive := rs.dive, fpe := rs.fpe }

/-- The global CC bits, the halt state and the exception bits of both sets (R31 to R37, R46). -/
structure Status where
  gie : Bool
  sleep : Bool
  stepBit : Bool
  breakEn : Bool
  trap : Bool
  halted : Option HaltReason
  sup : Causes
  usr : Causes

def State.status (s : State) : Status :=
  { gie := s.gie, sleep := s.sleep, stepBit := s.stepBit, breakEn := s.breakEn, trap := s.trap, halted := s.halted
    sup := s.sup.causes, usr := s.usr.causes }

/-- Only general registers, PC, flags and software bits of the current set change. -/
theorem State.setCur_status {s : State} {rs : RegSet} (h : rs.causes = s.cur.causes) : (s.setCur rs).status = s.status := by
  cases hg : s.gie
  · rw [State.cur_sup s hg] at h
    simp [State.status, State.setCur_sup, State.setCur_usr, hg, h]
  · rw [State.cur_user s hg] at h
    simp [State.status, State.setCur_sup, State.setCur_usr, hg, h]

section
variable (s : State)

@[simp] theorem State.setPc_status (v : Word) : (s.setPc v).status = s.status := State.setCur_status rfl

@[simp] theorem State.jump_status (v : Word) : (s.jump v).status = s.status := s.setPc_status v

@[simp] theorem State.beginWord_status : s.beginWord.status = s.status := s.setPc_status _

theorem State.writeReg_status {i : RegNum} (hi : i ≠ ccReg) (v : Word) : (s.writeReg i v).status = s.status := by
  rcases s.writeReg_cases i v with ⟨-, e⟩ | ⟨-, e⟩ | ⟨e, -⟩
  · rw [e]; exact State.setCur_status rfl
  · rw [e]; exact s.jump_status v
  · exact absurd e hi

@[simp] theorem State.writeFlags_status (r : Word) (cv : CarryOverflow) : (s.writeFlags r cv).status = s.status :=
  State.setCur_status (rs := { s.cur with flags := flagsOf r cv s.draws }) rfl

@[simp] theorem State.writeUser_status (i : RegNum) (v : Word) : (s.writeUser i v).status = s.status := by
  unfold State.writeUser
  split
  · rfl
  split <;> rfl

theorem State.writeResult_status (cnd : Cond) (dr : RegNum) (r : Word) (cv : CarryOverflow) :
    (s.writeResult cnd dr r cv).status = (s.writeReg dr r).status := by
  unfold State.writeResult
  dsimp only
  split
  · exact State.writeFlags_status _ r cv
  · rfl

@[simp] theorem State.countDraws_status (k : Nat) : (s.countDraws k).status = s.status := rfl
@[simp] theorem State.present_status (e : BusEvent) : (s.present e).status = s.status := rfl
@[simp] theorem State.poke_status (a v : Word) : (s.poke a v).status = s.status := rfl
@[simp] theorem State.deadlockBus_status : s.deadlockBus.status = s.status := rfl
@[simp] theorem State.popInput_status : s.popInput.status = s.status := rfl
@[simp] theorem State.queueWrites_status (ws : List (Word × Word)) : (s.queueWrites ws).status = s.status := rfl

@[simp] theorem State.admitWrites_status (ws : List (Word × Word)) : (s.admitWrites ws).status = s.status := by
  simp [State.status]

end

/-! ### Registers 0 to 13 -/

theorem RegSet.get_of_gen {rs rs' : RegSet} (h : rs'.gen = rs.gen) (j : RegNum) : rs'.get j = rs.get j := by
  rw [RegSet.get, RegSet.get, h]

theorem RegSet.get_put_of_ne (rs : RegSet) {i j : RegNum} (h : i ≠ j) (v : Word) : (rs.put i v).get j = rs.get j := by
  simp only [RegSet.put, RegSet.get]
  rw [Vector.getElem?_setIfInBounds_ne fun e => h (BitVec.eq_of_toNat_eq e)]

section
variable {s : State}

/-- Writing CC changes no register 0 to 13 of either set (R40, R41). -/
theorem State.writeCC_gen (v : Word) : (s.writeCC v).sup.gen = s.sup.gen ∧ (s.writeCC v).usr.gen = s.usr.gen := by
  cases hg : s.gie
  · rw [State.writeCC_sup s v hg]
    rcases s.writeCCSupervisor_cases v with ⟨-, e⟩ | ⟨-, -, e⟩ | ⟨-, -, e⟩ <;> rw [e] <;> exact ⟨rfl, rfl⟩
  · rw [State.writeCC_user s v hg]
    rcases s.writeCCUser_cases v with ⟨-, e⟩ | ⟨-, e⟩ <;> rw [e] <;> exact ⟨rfl, rfl⟩

/-- Replacing the current set leaves what is read from the supervisor set, unless that is in use and it differs. -/
theorem State.setCur_sup_proj {α : Type} (f : RegSet → α) {rs : RegSet} (h : s.gie = true ∨ f rs = f s.cur) :
    f (s.setCur rs).sup = f s.sup := by
  rw [State.setCur_sup]
  cases hg : s.gie
  · simpa [hg, State.cur_sup s hg] using h
  · rfl

/-- The same of the user set. -/
theorem State.setCur_usr_proj {α : Type} (f : RegSet → α) {rs : RegSet} (h : s.gie = false ∨ f rs = f s.cur) :
    f (s.setCur rs).usr = f s.usr := by
  rw [State.setCur_usr]
  cases hg : s.gie
  · rfl
  · simpa [hg, State.cur_user s hg] using h

theorem State.writeReg_sup_get {i j : RegNum} (v : Word) (h : s.gie = true ∨ i ≠ j) :
    (s.writeReg i v).sup.get j = s.sup.get j := by
  rcases s.writeReg_cases i v with ⟨-, e⟩ | ⟨-, e⟩ | ⟨-, e⟩ <;> rw [e]
  · exact State.setCur_sup_proj (·.get j) (h.imp_right fun hij => RegSet.get_put_of_ne _ hij v)
  · exact State.setCur_sup_proj (·.get j) (rs := { s.cur with pc := v }) (.inr rfl)
  · exact RegSet.get_of_gen (State.writeCC_gen v).1 j

theorem State.writeReg_usr_get {i j : RegNum} (v : Word) (h : s.gie = false ∨ i ≠ j) :
    (s.writeReg i v).usr.get j = s.usr.get j := by
  rcases s.writeReg_cases i v with ⟨-, e⟩ | ⟨-, e⟩ | ⟨-, e⟩ <;> rw [e]
  · exact State.setCur_usr_proj (·.get j) (h.imp_right fun hij => RegSet.get_put_of_ne _ hij v)
  · exact State.setCur_usr_proj (·.get j) (rs := { s.cur with pc := v }) (.inr rfl)
  · exact RegSet.get_of_gen (State.writeCC_gen v).2 j

theorem State.writeFlags_sup_get (r : Word) (cv : CarryOverflow) (j : RegNum) :
    (s.writeFlags r cv).sup.get j = s.sup.get j :=
  State.setCur_sup_proj (·.get j) (rs := { s.cur with flags := flagsOf r cv s.draws }) (.inr rfl)

theorem State.writeFlags_usr_get (r : Word) (cv : CarryOverflow) (j : RegNum) :
    (s.writeFlags r cv).usr.get j = s.usr.get j :=
  State.setCur_usr_proj (·.get j) (rs := { s.cur with flags := flagsOf r cv s.draws }) (.inr rfl)

theorem State.writeResult_sup_get (cnd : Cond) {dr j : RegNum} (r : Word) (cv : CarryOverflow) (h : s.gie = true ∨ dr ≠ j) :
    (s.writeResult cnd dr r cv).sup.get j = s.sup.get j := by
  unfold State.writeResult
  dsimp only
  split
  · rw [State.writeFlags_sup_get, State.writeReg_sup_get r h]
  · exact State.writeReg_sup_get r h

theorem State.writeResult_usr_get (cnd : Cond) {dr j : RegNum} (r : Word) (cv : CarryOverflow) (h : s.gie = false ∨ dr ≠ j) :
    (s.writeResult cnd dr r cv).usr.get j = s.usr.get j := by
  unfold State.writeResult
  dsimp only
  split
  · rw [State.writeFlags_usr_get, State.writeReg_usr_get r h]
  · exact State.writeReg_usr_get r h

theorem State.writeUser_usr_get {i j : RegNum} (v : Word) (h : i ≠ j) : (s.writeUser i v).usr.get j = s.usr.get j := by
  unfold State.writeUser
  split
  · rfl
  split
  · rfl
  · exact RegSet.get_put_of_ne _ h v

/-- Taking an exception changes no register 0 to 13 of either set (R361, R365). -/
theorem State.raise_gen (e : Exc) : (s.raise e).sup.gen = s.sup.gen ∧ (s.raise e).usr.gen = s.usr.gen := by
  cases hg : s.gie
  · rw [State.raise_sup s e hg]; simp
  · rw [State.raise_user s e hg]; simp

theorem State.breakTrap_gen : s.breakTrap.sup.gen = s.sup.gen ∧ s.breakTrap.usr.gen = s.usr.gen := by
  rcases s.breakTrap_cases with ⟨-, e⟩ | ⟨-, -, e⟩ <;> rw [e]
  · exact ⟨State.setCur_sup_proj RegSet.gen (.inr rfl), State.setCur_usr_proj RegSet.gen (.inr rfl)⟩
  · exact ⟨rfl, rfl⟩

/-! ### Flags and software bits -/

/-- A register other than CC is written without a change of the flags of either set (R153). -/
theorem State.writeReg_flags {i : RegNum} (hi : i ≠ ccReg) (v : Word) :
    (s.writeReg i v).sup.flags = s.sup.flags ∧ (s.writeReg i v).usr.flags = s.usr.flags := by
  rcases s.writeReg_cases i v with ⟨-, e⟩ | ⟨-, e⟩ | ⟨e, -⟩
  · rw [e]; exact ⟨State.setCur_sup_proj RegSet.flags (.inr rfl), State.setCur_usr_proj RegSet.flags (.inr rfl)⟩
  · rw [e]; exact ⟨State.setCur_sup_proj RegSet.flags (.inr rfl), State.setCur_usr_proj RegSet.flags (.inr rfl)⟩
  · exact absurd e hi

theorem State.writeUser_flags {i : RegNum} (hi : i ≠ ccReg) (v : Word) : (s.writeUser i v).usr.flags = s.usr.flags := by
  simp only [State.writeUser, if_neg hi]
  split <;> rfl

theorem State.writeFlags_sup_flags (h : s.gie = true) (r : Word) (cv : CarryOverflow) :
    (s.writeFlags r cv).sup.flags = s.sup.flags := State.setCur_sup_proj RegSet.flags (.inl h)

theorem State.writeFlags_usr_flags (h : s.gie = false) (r : Word) (cv : CarryOverflow) :
    (s.writeFlags r cv).usr.flags = s.usr.flags := State.setCur_usr_proj RegSet.flags (.inl h)

theorem State.raise_flags (e : Exc) :
    (s.raise e).sup.flags = s.sup.flags ∧ (s.raise e).usr.flags = s.usr.flags := by
  cases hg : s.gie
  · rw [State.raise_sup s e hg]; simp
  · rw [State.raise_user s e hg]; simp

theorem State.breakTrap_flags : s.breakTrap.sup.flags = s.sup.flags ∧ s.breakTrap.usr.flags = s.usr.flags := by
  rcases s.breakTrap_cases with ⟨-, e⟩ | ⟨-, -, e⟩ <;> rw [e]
  · exact ⟨State.setCur_sup_proj RegSet.flags (.inr rfl), State.setCur_usr_proj RegSet.flags (.inr rfl)⟩
  · exact ⟨rfl, rfl⟩

/-- A register other than CC is written without a change of the software bits of either set (R37). -/
theorem State.writeReg_hi {i : RegNum} (hi : i ≠ ccReg) (v : Word) :
    (s.writeReg i v).sup.hi = s.sup.hi ∧ (s.writeReg i v).usr.hi = s.usr.hi := by
  rcases s.writeReg_cases i v with ⟨-, e⟩ | ⟨-, e⟩ | ⟨e, -⟩
  · rw [e]; exact ⟨State.setCur_sup_proj RegSet.hi (.inr rfl), State.setCur_usr_proj RegSet.hi (.inr rfl)⟩
  · rw [e]; exact ⟨State.setCur_sup_proj RegSet.hi (.inr rfl), State.setCur_usr_proj RegSet.hi (.inr rfl)⟩
  · exact absurd e hi

theorem State.writeUser_hi {i : RegNum} (hi : i ≠ ccReg) (v : Word) : (s.writeUser i v).usr.hi = s.usr.hi := by
  simp only [State.writeUser, if_neg hi]
  split <;> rfl

theorem State.writeFlags_hi (r : Word) (cv : CarryOverflow) :
    (s.writeFlags r cv).sup.hi = s.sup.hi ∧ (s.writeFlags r cv).usr.hi = s.usr.hi :=
  ⟨State.setCur_sup_proj RegSet.hi (rs := { s.cur with flags := flagsOf r cv s.draws }) (.inr rfl),
    State.setCur_usr_proj RegSet.hi (rs := { s.cur with flags := flagsOf r cv s.draws }) (.inr rfl)⟩

end

/-! ### What each instruction does -/

/-- The next states an instruction can answer with, and what its named registers and class say of each: `Effect`, with
the instruction kept. -/
inductive Does (i : Instr) (s : State) : State → Prop
  | nothing : Does i s s
  | result {dr : RegNum} (hd : destination i = some dr) (cnd : Cond) (hf : writesFlags i = decide (cnd = .always))
      (r : Word) (cv : CarryOverflow) : Does i s (s.writeResult cnd dr r cv)
  | compared (hf : writesFlags i = true) (r : Word) (cv : CarryOverflow) : Does i s (s.writeFlags r cv)
  | register {dr : RegNum} (hd : destination i = some dr) (v : Word) : Does i s (s.writeReg dr v)
  | userRegister {dr : RegNum} (hg : s.gie = false) (hd : destination i = some dr) (hu : userDestination i = some dr)
      (v : Word) : Does i s (s.writeUser dr v)
  | loaded {dr : RegNum} (hd : destination i = some dr) (e : BusEvent) (k : Nat) (v : Word) :
      Does i s (((s.present e).countDraws k).writeReg dr v)
  | stored {dr : RegNum} {f : Form} (hi : i = .sto dr f) (e : BusEvent) (a v : Word) : Does i s ((s.present e).poke a v)
  | storedOutside (e : BusEvent) : Does i s (s.present e)
  | busError (e : BusEvent) : Does i s (s.present e).raiseBusError
  | stuck {k : Access} {a : Word} (h : s.answers k a = false) (e : BusEvent) : Does i s (s.present e).deadlockBus
  | raised {x : Exc} (hx : x = .illegalInstruction ∨ x = .divideByZero) : Does i s (s.raise x)
  | broke : Does i s s.breakTrap
  | locked : Does i s { s with lockCount := Config.lockSpan }

section
variable {i : Instr} {s t u : State} {dr : RegNum} {f : Form}

theorem conditional_does {cnd : Cond} (h : conditional cnd s (.next u) = .next t) (hu : Does i s u) : Does i s t := by
  rw [conditional_next] at h
  cases h
  split
  · exact hu
  · exact .nothing

theorem aluOp_does {r : Word → Word → Word} {cv : Word → Word → CarryOverflow} (h : aluOp r cv dr f s = .next t)
    (hd : destination i = some dr) (hf : writesFlags i = decide (formCond f = .always)) : Does i s t :=
  conditional_does h (.result hd _ hf _ _)

theorem compareOp_does {r : Word → Word → Word} {cv : Word → Word → CarryOverflow} (h : compareOp r cv dr f s = .next t)
    (hf : writesFlags i = true) : Does i s t := conditional_does h (.compared hf _ _)

theorem loadOp_does {r : Word → Word → Word} (h : loadOp r dr f s = .next t) (hd : destination i = some dr) :
    Does i s t := conditional_does h (.register hd _)

theorem divideOp_does {q : Word → Word → Word} (h : divideOp q dr f s = .next t) (hd : destination i = some dr)
    (hf : writesFlags i = decide (formCond f = .always)) : Does i s t := by
  refine conditional_does h ?_
  split
  · exact .raised (.inr rfl)
  · exact .result hd _ hf _ _

theorem illegalOp_does (h : illegalOp s = .next t) : Does i s t := by
  cases h
  exact .raised (.inl rfl)

theorem execMov_does {g : MovForm} (h : execMov dr g s = .next t) : Does (.mov dr g) s t := by
  refine conditional_does h ?_
  split
  case isTrue hc =>
    cases g with
    | std cnd a br b imm =>
      obtain ⟨hg, rfl⟩ : s.gie = false ∧ a = true := by simpa [State.movCrosses, State.crosses] using hc
      exact .userRegister hg rfl rfl _
    | c1 | c2 => cases hc
  case isFalse => exact .register rfl _

theorem execLod_does (h : execLod dr f s = .next t) : Does (.lod dr f) s t := by
  simp only [execLod] at h
  cases ha : s.answers .load (s.operandB f)
  · rw [State.dataAccess_silent _ _ _ _ _ ha] at h
    exact conditional_does h (.stuck ha _)
  rw [State.dataAccess_answered _ _ _ _ _ ha] at h
  rcases s.memRead_cases (s.operandB f) with ⟨-, e⟩ | ⟨-, e⟩ | ⟨-, e⟩ <;> rw [e] at h
  · exact conditional_does h (.loaded rfl _ 0 _)
  · exact conditional_does h (.loaded rfl _ 1 _)
  · exact conditional_does h (.busError _)

theorem execSto_does (h : execSto dr f s = .next t) : Does (.sto dr f) s t := by
  simp only [execSto] at h
  cases ha : s.answers .store (s.operandB f)
  · rw [State.dataAccess_silent _ _ _ _ _ ha] at h
    exact conditional_does h (.stuck ha _)
  rw [State.dataAccess_answered _ _ _ _ _ ha] at h
  rcases s.memWrite_cases (s.operandB f) (s.readReg dr) with ⟨-, e⟩ | ⟨-, e⟩ | ⟨-, e⟩ <;> rw [e] at h
  · exact conditional_does h (.stored rfl _ _ _)
  · exact conditional_does h (.storedOutside _)
  · exact conditional_does h (.busError _)

/-- Everything an instruction does, with the registers it names. -/
theorem exec_does (h : exec i s = .next t) : Does i s t := by
  cases i
  case mov => exact execMov_does h
  case ldi => exact conditional_does h (.register rfl _)
  case lod => exact execLod_does h
  case sto => exact execSto_does h
  case noop => cases h; exact .nothing
  case brk f => cases f <;> cases h; exact .broke
  case lock f => cases f <;> cases h; exact .locked
  case undefinedMovImm => cases h
  case fpadd | fpsub | fpmpy | fpdiv | fpcvt | fpint | illegal1B | illegal1C | illegal1D | reserved1E | reserved1F =>
    exact illegalOp_does h
  case cmp | tst => exact compareOp_does h rfl
  case ldihi | ldilo => exact loadOp_does h rfl
  case divu | divs => exact divideOp_does h rfl rfl
  all_goals exact aluOp_does h rfl rfl

end

/-! ### Frames of the instructions -/

section
variable {i : Instr} {s t : State}

theorem Does.peek (h : Does i s t) (hi : ∀ dr f, i ≠ .sto dr f) (a : Word) : t.peek a = s.peek a := by
  refine congrArg (Memory.read · a.toNat) (?_ : t.mem = s.mem)
  cases h with
  | stored hs => exact absurd hs (hi _ _)
  | _ => simp

/-- A register 0 to 13 of the supervisor set changes in supervisor mode only, as the destination. -/
theorem Does.sup_get (h : Does i s t) {j : RegNum} (hj : s.gie = true ∨ destination i ≠ some j) :
    t.sup.get j = s.sup.get j := by
  have hne {dr : RegNum} (hd : destination i = some dr) : s.gie = true ∨ dr ≠ j :=
    hj.imp_right fun hn e => hn (e ▸ hd)
  cases h with
  | result hd => exact State.writeResult_sup_get _ _ _ (hne hd)
  | compared => exact State.writeFlags_sup_get _ _ j
  | register hd => exact State.writeReg_sup_get _ (hne hd)
  | userRegister => rw [State.writeUser_sup]
  | loaded hd e k => exact State.writeReg_sup_get (s := (s.present e).countDraws k) _ (hne hd)
  | busError | raised => exact RegSet.get_of_gen (State.raise_gen _).1 j
  | broke => exact RegSet.get_of_gen State.breakTrap_gen.1 j
  | nothing | stored | storedOutside | stuck | locked => rfl

/-- A register 0 to 13 of the user set changes as the destination, or in supervisor mode as the one that MOV's A bit names. -/
theorem Does.usr_get (h : Does i s t) {j : RegNum} (hj : s.gie = false ∨ destination i ≠ some j)
    (hu : s.gie = true ∨ userDestination i ≠ some j) : t.usr.get j = s.usr.get j := by
  have hne {dr : RegNum} (hd : destination i = some dr) : s.gie = false ∨ dr ≠ j :=
    hj.imp_right fun hn e => hn (e ▸ hd)
  cases h with
  | result hd => exact State.writeResult_usr_get _ _ _ (hne hd)
  | compared => exact State.writeFlags_usr_get _ _ j
  | register hd => exact State.writeReg_usr_get _ (hne hd)
  | userRegister hg _ hd =>
    refine State.writeUser_usr_get _ fun e => ?_
    rcases hu with h | h
    · simp [hg] at h
    · exact h (e ▸ hd)
  | loaded hd e k => exact State.writeReg_usr_get (s := (s.present e).countDraws k) _ (hne hd)
  | busError | raised => exact RegSet.get_of_gen (State.raise_gen _).2 j
  | broke => exact RegSet.get_of_gen State.breakTrap_gen.2 j
  | nothing | stored | storedOutside | stuck | locked => rfl

/-- Unless CC is the destination, the supervisor's flags change in supervisor mode only, by an instruction that is marked
to set them (R153). -/
theorem Does.sup_flags (h : Does i s t) (hcc : destination i ≠ some ccReg) (hw : s.gie = true ∨ writesFlags i = false) :
    t.sup.flags = s.sup.flags := by
  have hne {dr : RegNum} (hd : destination i = some dr) : dr ≠ ccReg := fun e => hcc (e ▸ hd)
  cases h with
  | @result dr hd cnd hf r cv =>
    have hreg := (State.writeReg_flags (s := s) (hne hd) r).1
    unfold State.writeResult
    dsimp only
    split
    case isTrue hc =>
      rw [hf, decide_eq_true hc.1] at hw
      rw [State.writeFlags_sup_flags (by rw [State.writeReg_gie_of_ne_cc hc.2]; simpa using hw), hreg]
    case isFalse => exact hreg
  | compared hf => exact State.writeFlags_sup_flags (by simpa [hf] using hw) _ _
  | register hd => exact (State.writeReg_flags (hne hd) _).1
  | userRegister => rw [State.writeUser_sup]
  | loaded hd e k => exact (State.writeReg_flags (s := (s.present e).countDraws k) (hne hd) _).1
  | busError | raised => exact (State.raise_flags _).1
  | broke => exact State.breakTrap_flags.1
  | nothing | stored | storedOutside | stuck | locked => rfl

/-- The same of the user's flags and user mode. -/
theorem Does.usr_flags (h : Does i s t) (hcc : destination i ≠ some ccReg) (hw : s.gie = false ∨ writesFlags i = false) :
    t.usr.flags = s.usr.flags := by
  have hne {dr : RegNum} (hd : destination i = some dr) : dr ≠ ccReg := fun e => hcc (e ▸ hd)
  cases h with
  | @result dr hd cnd hf r cv =>
    have hreg := (State.writeReg_flags (s := s) (hne hd) r).2
    unfold State.writeResult
    dsimp only
    split
    case isTrue hc =>
      rw [hf, decide_eq_true hc.1] at hw
      rw [State.writeFlags_usr_flags (by rw [State.writeReg_gie_of_ne_cc hc.2]; simpa using hw), hreg]
    case isFalse => exact hreg
  | compared hf => exact State.writeFlags_usr_flags (by simpa [hf] using hw) _ _
  | register hd => exact (State.writeReg_flags (hne hd) _).2
  | userRegister _ hd => exact State.writeUser_flags (hne hd) _
  | loaded hd e k => exact (State.writeReg_flags (s := (s.present e).countDraws k) (hne hd) _).2
  | busError | raised => exact (State.raise_flags _).2
  | broke => exact State.breakTrap_flags.2
  | nothing | stored | storedOutside | stuck | locked => rfl

end

end Sys2Proof.Machine

namespace Sys2Proof.Proofs

open Sys2Proof.Machine Sys2Proof.Claims

/-- Settles O35: memory is written by a store alone. -/
theorem onlyStoresChangeMemory : Obligations.OnlyStoresChangeMemory :=
  fun _ _ _ hi h => (exec_does h).peek hi

/-- Settles O36, from the frames of registers 0 to 13 of each set. -/
theorem otherRegistersAreUnchanged : Obligations.OtherRegistersAreUnchanged := by
  intro i s t j _ h
  refine ⟨fun hg => ⟨(exec_does h).sup_get (.inl hg), fun hd => (exec_does h).usr_get (.inr hd) (.inl hg)⟩,
    fun hg => ⟨fun hd => (exec_does h).sup_get (.inr hd), fun hu => (exec_does h).usr_get (.inl hg) (.inr hu)⟩⟩

/-- Settles O37, from the frames of each set's flags. -/
theorem flagsChangeOnlyWhereNamed : Obligations.FlagsChangeOnlyWhereNamed := by
  intro i s t h hcc
  exact ⟨fun hg => (exec_does h).sup_flags hcc (.inl hg), fun hg => (exec_does h).usr_flags hcc (.inl hg),
    fun hw => ⟨(exec_does h).sup_flags hcc (.inr hw), (exec_does h).usr_flags hcc (.inr hw)⟩⟩

end Sys2Proof.Proofs
end

section
/-! What an instruction does to the mode, the halt state and the exception bits, as a relation on those bits alone. -/

namespace Sys2Proof.Machine

open Sys2Proof.Claims

/-! ### The relation on the status bits -/

/-- No exception bit set. -/
def Causes.none : Causes := { ill := false, buserr := false, dive := false, fpe := false }

/-- The exception bits with one more set (R351). -/
def Causes.set (c : Causes) : Exc → Causes
  | .illegalInstruction => { c with ill := true }
  | .busError => { c with buserr := true }
  | .divideByZero => { c with dive := true }
  | .floatingPoint => { c with fpe := true }

/-- `TrapEntry` on the status bits (R361). -/
def Status.enterSupervisor (σ : Status) : Status := { σ with gie := false, sleep := false, stepBit := false }

/-- What an instruction, an interrupt or the end of a word can make of the status bits (R40, R41, R356 to R370). -/
inductive Status.Next (σ : Status) : Status → Prop
  | same : Next σ σ
  | sleepWritten (hg : σ.gie = true) (sleep : Bool) : Next σ { σ with sleep := sleep }
  | trapped (hg : σ.gie = true) : Next σ { σ with trap := true }.enterSupervisor
  | left (hg : σ.gie = true) : Next σ σ.enterSupervisor
  | exceptionTaken (hg : σ.gie = true) (e : Exc) (he : e ≠ .floatingPoint) :
      Next σ { σ with usr := σ.usr.set e }.enterSupervisor
  | modeWritten (hg : σ.gie = false) (step brk : Bool) :
      Next σ { σ with stepBit := step, breakEn := brk, sleep := false }
  | sleepHalt (hg : σ.gie = false) (step brk : Bool) :
      Next σ { σ with stepBit := step, breakEn := brk, sleep := true, halted := some .sleepInSupervisor }
  | returned (hg : σ.gie = false) (step brk sleep : Bool) :
      Next σ { σ with stepBit := step, breakEn := brk, sleep := sleep, gie := true, trap := false, usr := .none }
  | exceptionHalt (hg : σ.gie = false) (e : Exc) (he : e ≠ .floatingPoint) :
      Next σ { σ with sup := σ.sup.set e, halted := some (.exception e) }
  | breakHalt : Next σ { σ with halted := some .brk }

@[simp] theorem RegSet.setExc_causes (rs : RegSet) (e : Exc) : (rs.setExc e).causes = rs.causes.set e := by
  cases e <;> rfl

@[simp] theorem State.halt_status (s : State) (r : HaltReason) : (s.halt r).status = { s.status with halted := some r } := rfl

@[simp] theorem State.enterSupervisor_status (s : State) (v : Word) :
    (s.enterSupervisor v).status = s.status.enterSupervisor := rfl

section
variable (s : State)

theorem State.writeCC_next (v : Word) : s.status.Next (s.writeCC v).status := by
  cases hg : s.gie
  · rw [State.writeCC_sup s v hg]
    rcases s.writeCCSupervisor_cases v with ⟨-, e⟩ | ⟨-, h4, e⟩ | ⟨-, h4, e⟩ <;> rw [e]
    · exact .returned hg v[6] v[7] v[4]
    · rw [h4]; exact .sleepHalt hg v[6] v[7]
    · rw [h4]; exact .modeWritten hg v[6] v[7]
  · rw [State.writeCC_user s v hg]
    rcases s.writeCCUser_cases v with ⟨-, e⟩ | ⟨-, e⟩ <;> rw [e]
    · exact .sleepWritten hg v[4]
    · exact .trapped hg

theorem State.writeReg_next (i : RegNum) (v : Word) : s.status.Next (s.writeReg i v).status := by
  by_cases hi : i = ccReg
  · rw [hi, State.writeReg_cc]
    exact s.writeCC_next v
  · rw [State.writeReg_status s hi]
    exact .same

theorem State.raise_next (e : Exc) (he : e ≠ .floatingPoint) : s.status.Next (s.raise e).status := by
  cases hg : s.gie
  · have h : (s.raise e).status = { s.status with sup := s.status.sup.set e, halted := some (.exception e) } := by
      rw [State.raise_sup s e hg, State.halt_status, State.status]
      exact congrArg (fun c => ({ s.status with sup := c, halted := some (.exception e) } : Status)) (s.sup.setExc_causes e)
    rw [h]
    exact .exceptionHalt hg e he
  · have h : (s.raise e).status = { s.status with usr := s.status.usr.set e }.enterSupervisor := by
      rw [State.raise_user s e hg, State.enterSupervisor_status]
      exact congrArg (fun c => ({ s.status with usr := c } : Status).enterSupervisor) (s.usr.setExc_causes e)
    rw [h]
    exact .exceptionTaken hg e he

theorem State.breakTrap_next : s.status.Next s.breakTrap.status := by
  rcases s.breakTrap_cases with ⟨-, e⟩ | ⟨-, hg, e⟩ <;> rw [e]
  · rw [State.halt_status, State.setPc_status]
    exact .breakHalt
  · exact .left hg

end

/-- An instruction changes the status bits as the relation says. -/
theorem Effect.status_next {s t : State} (h : Effect s t) : s.status.Next t.status := by
  cases h with
  | result cnd dr r cv => rw [State.writeResult_status]; exact s.writeReg_next dr r
  | compared r cv => rw [State.writeFlags_status]; exact .same
  | register dr v => exact s.writeReg_next dr v
  | userRegister _ dr v => rw [State.writeUser_status]; exact .same
  | loaded e k dr v => exact ((s.present e).countDraws k).writeReg_next dr v
  | busError e => exact ({ s.present e with lockCount := 0 } : State).raise_next .busError nofun
  | illegal => exact s.raise_next _ nofun
  | divideByZero => exact s.raise_next _ nofun
  | broke => exact s.breakTrap_next
  | nothing | stored | storedOutside | stuck | locked => exact .same

theorem exec_status_next {i : Instr} {s t : State} (h : exec i s = .next t) : s.status.Next t.status :=
  (exec_effect i s t h).status_next

/-! ### In user mode -/

/-- In user mode BREAKEN stays and STEP is cleared exactly by leaving user mode (R33, R34). -/
theorem Status.Next.user_step {σ τ : Status} (h : σ.Next τ) (hg : σ.gie = true) :
    τ.breakEn = σ.breakEn ∧ ((τ.gie = true ∧ τ.stepBit = σ.stepBit) ∨ (τ.gie = false ∧ τ.stepBit = false)) := by
  cases h with
  | same | sleepWritten | breakHalt => exact ⟨rfl, .inl ⟨hg, rfl⟩⟩
  | trapped | left | exceptionTaken => exact ⟨rfl, .inr ⟨rfl, rfl⟩⟩
  | modeWritten hs | sleepHalt hs | returned hs | exceptionHalt hs => simp [hg] at hs

/-- TRAP is set in user mode only, on the way out of it (R36). -/
theorem Status.Next.trap {σ τ : Status} (h : σ.Next τ) (hs : σ.trap = false) (ht : τ.trap = true) :
    σ.gie = true ∧ τ.gie = false := by
  cases h with
  | trapped hg => exact ⟨hg, rfl⟩
  | returned => cases ht
  | _ => simp_all [Status.enterSupervisor]

/-! ### Instructions that only compute -/

/-- What an instruction that only computes leaves alone: the status bits, the LOCK span, the bus, memory and the software
bits of both sets. -/
structure ComputeFrame (s t : State) : Prop where
  status : t.status = s.status
  lockCount : t.lockCount = s.lockCount
  busDeadlocked : t.busDeadlocked = s.busDeadlocked
  busLog : t.busLog = s.busLog
  mem : t.mem = s.mem
  supHi : t.sup.hi = s.sup.hi
  usrHi : t.usr.hi = s.usr.hi

section
variable {s : State}

theorem ComputeFrame.refl : ComputeFrame s s := ⟨rfl, rfl, rfl, rfl, rfl, rfl, rfl⟩

theorem ComputeFrame.trans {t u : State} (h : ComputeFrame s t) (h' : ComputeFrame t u) : ComputeFrame s u :=
  ⟨h'.status.trans h.status, h'.lockCount.trans h.lockCount, h'.busDeadlocked.trans h.busDeadlocked,
    h'.busLog.trans h.busLog, h'.mem.trans h.mem, h'.supHi.trans h.supHi, h'.usrHi.trans h.usrHi⟩

theorem State.writeReg_lockCount {i : RegNum} (hi : i ≠ ccReg) (v : Word) : (s.writeReg i v).lockCount = s.lockCount := by
  rcases s.writeReg_cases i v with ⟨-, e⟩ | ⟨-, e⟩ | ⟨e, -⟩
  · rw [e, State.setCur_lockCount]
  · rw [e, State.jump_lockCount]
  · exact absurd e hi

theorem State.writeReg_computeFrame {i : RegNum} (hi : i ≠ ccReg) (v : Word) : ComputeFrame s (s.writeReg i v) :=
  ⟨s.writeReg_status hi v, State.writeReg_lockCount hi v, by simp, by simp, by simp, (State.writeReg_hi hi v).1,
    (State.writeReg_hi hi v).2⟩

theorem State.writeFlags_computeFrame (r : Word) (cv : CarryOverflow) : ComputeFrame s (s.writeFlags r cv) :=
  ⟨by simp, by simp, by simp, by simp, by simp, (State.writeFlags_hi r cv).1, (State.writeFlags_hi r cv).2⟩

theorem State.writeUser_computeFrame {i : RegNum} (hi : i ≠ ccReg) (v : Word) : ComputeFrame s (s.writeUser i v) :=
  ⟨by simp, by simp, by simp, by simp, by simp, by simp, State.writeUser_hi hi v⟩

theorem State.writeResult_computeFrame (cnd : Cond) {dr : RegNum} (hdr : dr ≠ ccReg) (r : Word) (cv : CarryOverflow) :
    ComputeFrame s (s.writeResult cnd dr r cv) := by
  unfold State.writeResult
  dsimp only
  split
  · exact (State.writeReg_computeFrame hdr r).trans (State.writeFlags_computeFrame r cv)
  · exact State.writeReg_computeFrame hdr r

theorem conditional_computeFrame (cnd : Cond) {u : State} (h : ComputeFrame s u) :
    ∃ t, conditional cnd s (.next u) = .next t ∧ ComputeFrame s t := by
  refine ⟨_, conditional_next cnd s u, ?_⟩
  split
  · exact h
  · exact .refl

/-- An instruction that only computes, and does not name CC, always completes, within that frame. -/
theorem exec_computeFrame {i : Instr} (hp : plain i = true) (hcc : destination i ≠ some ccReg) :
    ∃ t, exec i s = .next t ∧ ComputeFrame s t := by
  have hdr {dr : RegNum} (h : some dr ≠ some ccReg) : dr ≠ ccReg := fun e => h (congrArg some e)
  cases i
  case mov dr f =>
    refine conditional_computeFrame _ ?_
    split
    · exact State.writeUser_computeFrame (hdr hcc) _
    · exact State.writeReg_computeFrame (hdr hcc) _
  case ldi | ldihi | ldilo => exact conditional_computeFrame _ (State.writeReg_computeFrame (hdr hcc) _)
  case cmp | tst => exact conditional_computeFrame _ (State.writeFlags_computeFrame _ _)
  case noop => exact ⟨s, rfl, .refl⟩
  case lod | sto | divu | divs | fpadd | fpsub | fpmpy | fpdiv | fpcvt | fpint | brk | lock | illegal1B | illegal1C
    | illegal1D | reserved1E | reserved1F | undefinedMovImm => cases hp
  all_goals exact conditional_computeFrame _ (State.writeResult_computeFrame _ (hdr hcc) _ _)

end

/-! ### Writes of CC -/

/-- TRAP changes, and user mode is entered, only where CC is the destination and is written. -/
theorem Does.wroteCC {i : Instr} {s t : State} (h : Does i s t) (hne : t.trap ≠ s.trap ∨ s.gie = false ∧ t.gie = true) :
    destination i = some ccReg ∧
      ∃ (u : State) (v : Word), u.gie = s.gie ∧ u.usr = s.usr ∧ u.wordAddr = s.wordAddr ∧ t = u.writeCC v := by
  have hstatus : t.status ≠ s.status := by
    intro e
    have htrap : t.trap = s.trap := congrArg Status.trap e
    have hgie : t.gie = s.gie := congrArg Status.gie e
    simp_all
  have hraise {u : State} (hu : u.status = s.status) (e : Exc) : t ≠ u.raise e := by
    rintro rfl
    have htrap : u.trap = s.trap := congrArg Status.trap hu
    have hgie : u.gie = s.gie := congrArg Status.gie hu
    cases hg : u.gie
    · simp_all [u.raise_sup e hg]
    · simp_all [u.raise_user e hg]
  have hwrite {u : State} (hu : u.status = s.status) {dr : RegNum} {r : Word}
      (ht : t.status = (u.writeReg dr r).status) : dr = ccReg := by
    by_contra hdr
    rw [State.writeReg_status u hdr, hu] at ht
    exact hstatus ht
  cases h with
  | @result dr hd cnd hf r cv =>
    obtain rfl := hwrite rfl (s.writeResult_status cnd dr r cv)
    exact ⟨hd, s, r, rfl, rfl, rfl, by simp [State.writeResult, State.writeReg_cc]⟩
  | compared => exact absurd (s.writeFlags_status _ _) hstatus
  | @register dr hd v =>
    obtain rfl := hwrite rfl rfl
    exact ⟨hd, s, v, rfl, rfl, rfl, s.writeReg_cc v⟩
  | userRegister => exact absurd (s.writeUser_status _ _) hstatus
  | @loaded dr hd e k v =>
    obtain rfl := hwrite (u := (s.present e).countDraws k) rfl rfl
    exact ⟨hd, (s.present e).countDraws k, v, rfl, rfl, rfl, State.writeReg_cc _ v⟩
  | busError e => exact absurd rfl (hraise (u := { s.present e with lockCount := 0 }) rfl .busError)
  | raised => exact absurd rfl (hraise rfl _)
  | broke =>
    exfalso
    rcases s.breakTrap_cases with ⟨-, e⟩ | ⟨-, -, e⟩ <;> rw [e] at hne <;> simp at hne
  | nothing | stored | storedOutside | stuck | locked => exact absurd rfl hstatus

/-- A supervisor-mode write of CC that enters user mode is a return (R363). -/
theorem State.writeCC_returned {s : State} {v : Word} (hg : s.gie = false) (h : (s.writeCC v).gie = true) :
    s.writeCC v =
      ({ s with sup := s.sup.putCCBits v, stepBit := v[6], breakEn := v[7], sleep := v[4] } : State).returnToUser := by
  rw [State.writeCC_sup s v hg] at h ⊢
  rcases s.writeCCSupervisor_cases v with ⟨-, e⟩ | ⟨-, -, e⟩ | ⟨-, -, e⟩
  · exact e
  · simp [e, hg] at h
  · simp [e, hg] at h

theorem State.writeCC_trapped {s : State} {v : Word} (hg : s.gie = true) (h : v[5] = false) :
    s.writeCC v = ({ s with usr := s.usr.putCCBits v, trap := true } : State).enterSupervisor (s.wordAddr + 1#32) := by
  rw [State.writeCC_user s v hg]
  rcases s.writeCCUser_cases v with ⟨h', -⟩ | ⟨-, e⟩
  · simp [h] at h'
  · exact e

end Sys2Proof.Machine

namespace Sys2Proof.Proofs

open Sys2Proof.Machine Sys2Proof.Claims

/-- Settles O38, from the frame of the instructions that only compute. -/
theorem plainInstructionsKeepTheMode : Obligations.PlainInstructionsKeepTheMode := by
  intro i s hp hcc
  obtain ⟨t, ht, hframe⟩ := exec_computeFrame (s := s) hp hcc
  have hs := hframe.status
  have hsup : t.sup.causes = s.sup.causes := congrArg Status.sup hs
  have husr : t.usr.causes = s.usr.causes := congrArg Status.usr hs
  exact ⟨t, ht, congrArg Status.gie hs, congrArg Status.sleep hs, congrArg Status.stepBit hs, congrArg Status.breakEn hs,
    congrArg Status.trap hs, congrArg Status.halted hs, hframe.lockCount, hframe.busDeadlocked, hframe.busLog, hframe.mem,
    congrArg Causes.ill hsup, congrArg Causes.buserr hsup, congrArg Causes.dive hsup, congrArg Causes.fpe hsup,
    hframe.supHi, congrArg Causes.ill husr, congrArg Causes.buserr husr, congrArg Causes.dive husr,
    congrArg Causes.fpe husr, hframe.usrHi⟩

/-- Settles O40, from what can become of the status bits in user mode. -/
theorem userModeCannotSetStepOrBreakEnable : Obligations.UserModeCannotSetStepOrBreakEnable := by
  intro i s t hg h
  obtain ⟨hbreak, ⟨-, hstep⟩ | hleft⟩ := (exec_status_next h).user_step hg
  · exact ⟨hbreak, .inl hstep⟩
  · exact ⟨hbreak, .inr hleft⟩

/-- Settles O42: such an instruction writes CC, and that write is a return to user mode. -/
theorem onlyCcWriteEntersUserMode : Obligations.OnlyCcWriteEntersUserMode := by
  intro i s t h hs ht
  obtain ⟨hd, u, v, hu, husr, haddr, rfl⟩ := (exec_does h).wroteCC (.inr ⟨hs, ht⟩)
  have hgen : u.usr.gen = s.usr.gen := congrArg RegSet.gen husr
  have hpc : u.usr.pc = s.usr.pc := congrArg RegSet.pc husr
  rw [State.writeCC_returned (hu.trans hs) ht]
  exact ⟨hd, congrArg (· + 1#32) haddr, rfl, rfl, rfl, rfl, rfl, hgen, hpc⟩

end Sys2Proof.Proofs
end

section
/-! The step (R150): how it answers in each of its cases, and everything it can do, said once. -/

namespace Sys2Proof.Machine

open Sys2Proof.Claims

/-! ### Refused encodings -/

theorem exec_of_refusalOf {i : Instr} {r : Refusal} (h : refusalOf i = some r) (s : State) : exec i s = .refused r := by
  unfold refusalOf at h
  split at h <;> cases h <;> rfl

/-- The undefined encodings are those that have a name to be refused by (R115). -/
theorem undefinedEncoding_eq (i : Instr) : i.undefinedEncoding = (refusalOf i).isSome := by
  cases i
  case brk f => cases f <;> rfl
  case lock f => cases f <;> rfl
  all_goals rfl

theorem exec_of_undefinedEncoding {i : Instr} (h : i.undefinedEncoding = true) (s : State) : ∃ r, exec i s = .refused r := by
  rw [undefinedEncoding_eq, Option.isSome_iff_exists] at h
  obtain ⟨r, hr⟩ := h
  exact ⟨r, exec_of_refusalOf hr s⟩

/-! ### How the step answers -/

theorem Outcome.andThen_eq_next {o : Outcome} {g : State → Outcome} {t : State} (h : Outcome.andThen o g = .next t) :
    ∃ u, o = .next u ∧ g u = .next t := by
  cases o with
  | next u => exact ⟨u, rfl, h⟩
  | fault r => cases h
  | refused r => cases h

theorem Outcome.andThen_assoc (o : Outcome) (f g : State → Outcome) :
    Outcome.andThen (Outcome.andThen o f) g = Outcome.andThen o (fun t => Outcome.andThen (f t) g) := by
  cases o <;> rfl

section
variable {s u : State} {x : Input} {w : Word} {d : CodeWord}

theorem State.stepWith_stopped (h : s.halted ≠ none ∨ s.busDeadlocked = true) :
    s.stepWith x = .next (s.queueWrites x.later) := by
  have hstop : (s.halted.isSome || s.busDeadlocked) = true := by simpa [Option.isSome_iff_ne_none] using h
  rw [State.stepWith, if_pos hstop]

theorem State.stepWith_interrupt (hh : s.halted = none) (hd : s.busDeadlocked = false) (hg : s.gie = true)
    (hi : x.irq = true) (hl : s.lockCount = 0) : s.stepWith x = .next (s.interruptEntry.queueWrites x.later) := by
  simp [State.stepWith, hh, hd, hg, hi, hl]

theorem State.stepWith_asleep (hi : ¬ (s.gie = true ∧ x.irq = true ∧ s.lockCount = 0)) (hs : s.sleep = true) :
    s.stepWith x = .next (s.queueWrites x.later) := by
  by_cases hstop : s.halted ≠ none ∨ s.busDeadlocked = true
  · exact State.stepWith_stopped hstop
  · simp_all [State.stepWith]

theorem State.stepWith_silent (hh : s.halted = none) (hd : s.busDeadlocked = false) (hs : s.sleep = false)
    (hi : ¬ (s.gie = true ∧ x.irq = true ∧ s.lockCount = 0)) (ha : s.answers .fetch s.cur.pc = false) :
    s.stepWith x = .next (s.deadlockBus.queueWrites x.later) := by
  simp_all [State.stepWith]

theorem State.stepWith_word (hr : Running s x) (hf : s.fetchWord s.cur.pc = .word w u) :
    s.stepWith x = u.runFetched x (decodeWord w) := by
  obtain ⟨hh, hd, hs, hi, ha⟩ := hr
  simp_all [State.stepWith]

theorem State.stepWith_fetchFault (hr : Running s x) (hf : s.fetchWord s.cur.pc = .busError u) :
    s.stepWith x = .next (u.fetchFault.queueWrites x.later) := by
  obtain ⟨hh, hd, hs, hi, ha⟩ := hr
  simp_all [State.stepWith]

theorem State.runFetched_allowed (h : s.lockCount = 0 ∨ d.lockable = true) :
    s.runFetched x d = Outcome.andThen (execWord x.between d (s.admitWrites x.afterFetch).beginWord)
      (fun t => .next (t.endWord s.gie d.isLock)) := by
  rw [State.runFetched, if_neg]
  rintro ⟨hl, hd⟩
  simp [hl, hd] at h

theorem State.runFetched_refused (hl : s.lockCount ≠ 0) (hd : d.lockable = false) :
    s.runFetched x d = .refused .lockSpan := by
  rw [State.runFetched, if_pos ⟨hl, hd⟩]

theorem step_of_no_host (h : s.input.host = none) : step s = (arrived s).stepWith s.input := by
  simp only [step, State.cycle, h, arrived]

theorem step_of_host {act : HostAction} (h : s.input.host = some act) (ha : act.applies (arrived s) = true) :
    step s = (arrived s).hostAct s.input act := by
  unfold arrived at ha
  simp only [step, State.cycle, h, ha, if_true, arrived]

theorem step_of_idle_host {act : HostAction} (h : s.input.host = some act) (ha : act.applies (arrived s) = false) :
    step s = (arrived s).stepWith s.input := by
  unfold arrived at ha
  simp [step, State.cycle, h, ha, arrived]

/-- A step is a host action that acts, or the CPU's own. -/
theorem step_cases {t : State} (h : step s = .next t) :
    (∃ act : HostAction, s.input.host = some act ∧ act.applies (arrived s) = true ∧
      (arrived s).hostAct s.input act = .next t) ∨
    (arrived s).stepWith s.input = .next t := by
  cases hact : s.input.host with
  | none => exact .inr (step_of_no_host hact ▸ h)
  | some act =>
    cases ha : act.applies (arrived s)
    · exact .inr (step_of_idle_host hact ha ▸ h)
    · exact .inl ⟨act, rfl, ha, step_of_host hact ha ▸ h⟩

end

/-! ### The end of a word -/

/-- The LOCK span counted down by a word, unless it is a LOCK (R150, R282). -/
def State.counted (s : State) (isLock : Bool) : State :=
  { s with lockCount := if isLock then s.lockCount else s.lockCount - 1 }

/-- Everything the end of a word can do (R150, R358). -/
theorem State.endWord_cases (s : State) (wasUser isLock : Bool) :
    (s.busDeadlocked = true ∧ s.endWord wasUser isLock = s) ∨
    (s.busDeadlocked = false ∧ (wasUser = true ∧ s.gie = true ∧ s.stepBit = true ∧ s.halted = none) ∧
      s.endWord wasUser isLock = (s.counted isLock).stepReturn) ∨
    (s.busDeadlocked = false ∧ ¬ (wasUser = true ∧ s.gie = true ∧ s.stepBit = true ∧ s.halted = none) ∧
      s.endWord wasUser isLock = s.counted isLock) := by
  have hcounted : (if isLock then s else { s with lockCount := s.lockCount - 1 }) = s.counted isLock := by
    cases isLock <;> rfl
  cases hd : s.busDeadlocked
  case true => exact .inl ⟨rfl, by rw [State.endWord, if_pos hd]⟩
  have hend : s.endWord wasUser isLock =
      if wasUser && s.gie && s.stepBit && s.halted.isNone then (s.counted isLock).stepReturn else s.counted isLock := by
    rw [State.endWord, if_neg (by simp [hd]), hcounted]
    rfl
  by_cases hback : wasUser = true ∧ s.gie = true ∧ s.stepBit = true ∧ s.halted = none
  · exact .inr (.inl ⟨rfl, hback, by rw [hend, if_pos (by simp [hback])]⟩)
  · exact .inr (.inr ⟨rfl, hback, by rw [hend, if_neg (by simpa [and_assoc] using hback)]⟩)

/-! ### Everything a step can do -/

/-- A word that ran: one instruction, an illegal word, or two halves of which the first caused no control event (R157). -/
inductive WordRun (ws : List (Word × Word)) (b : State) : State → Prop
  | one {i : Instr} {u : State} (hi : exec i b = .next u) : WordRun ws b (u.queueWrites ws)
  | illegal : WordRun ws b ((b.raise .illegalInstruction).queueWrites ws)
  | two {i j : Instr} {u v : State} (hi : exec i b = .next u) (hc : u.control = false)
      (hj : exec j (u.admitWrites ws) = .next v) : WordRun ws b v

theorem execHalves_run {ws : List (Word × Word)} {i j : Instr} {b t : State} (h : execHalves ws i j b = .next t) :
    WordRun ws b t := by
  obtain ⟨u, hi, hu⟩ := Outcome.andThen_eq_next h
  split at hu
  case isTrue => cases hu; exact .one hi
  case isFalse hc => exact .two hi (by simpa using hc) hu

theorem execWord_run {ws : List (Word × Word)} {d : CodeWord} {b t : State} (h : execWord ws d b = .next t) :
    WordRun ws b t := by
  have hundefined {i : Instr} (hi : i.undefinedEncoding = true) : exec i b ≠ .next t := by
    obtain ⟨r, hr⟩ := exec_of_undefinedEncoding hi b
    simp [hr]
  cases d with
  | single i =>
    rw [execWord] at h
    obtain ⟨u, hi, hu⟩ := Outcome.andThen_eq_next h
    cases hu
    exact .one hi
  | pair i j =>
    rw [execWord] at h
    split at h
    · cases h; exact .illegal
    split at h
    case isTrue hi => exact absurd h (hundefined hi)
    split at h
    case isTrue hj => exact absurd h (hundefined hj)
    exact execHalves_run h

/-- The state in which a fetched word's instructions begin: other masters' writes have landed, its address is latched and
the PC is past it. -/
def State.begun (s : State) (x : Input) (k : Nat) : State := ((s.countDraws k).admitWrites x.afterFetch).beginWord

/-- Everything one step of the CPU can do (R150, R360). -/
inductive Stepped (s : State) (x : Input) : State → Prop
  | idle (h : s.halted ≠ none ∨ s.busDeadlocked = true ∨ s.sleep = true) : Stepped s x (s.queueWrites x.later)
  | interrupted (hh : s.halted = none) (hd : s.busDeadlocked = false) (hg : s.gie = true) :
      Stepped s x (s.interruptEntry.queueWrites x.later)
  | stuck (hh : s.halted = none) (ha : s.answers .fetch s.cur.pc = false) :
      Stepped s x (s.deadlockBus.queueWrites x.later)
  | fetchFault (hr : Running s x) : Stepped s x (s.fetchFault.queueWrites x.later)
  | ran (hr : Running s x) (k : Nat) (d : CodeWord) {u : State} (hu : WordRun x.between (s.begun x k) u) :
      Stepped s x (u.endWord s.gie d.isLock)

theorem State.runFetched_stepped {s t : State} {x : Input} {d : CodeWord} {k : Nat} (hr : Running s x)
    (h : (s.countDraws k).runFetched x d = .next t) : Stepped s x t := by
  unfold State.runFetched at h
  split at h
  · cases h
  · obtain ⟨u, hu, ht⟩ := Outcome.andThen_eq_next h
    cases ht
    exact .ran hr k d (execWord_run hu)

theorem State.stepWith_stepped {s t : State} {x : Input} (h : s.stepWith x = .next t) : Stepped s x t := by
  by_cases hstop : s.halted ≠ none ∨ s.busDeadlocked = true
  · cases (State.stepWith_stopped hstop).symm.trans h
    exact .idle (hstop.imp_right .inl)
  obtain ⟨hh, hd⟩ : s.halted = none ∧ s.busDeadlocked = false := by simpa using hstop
  by_cases hi : s.gie = true ∧ x.irq = true ∧ s.lockCount = 0
  · cases (State.stepWith_interrupt hh hd hi.1 hi.2.1 hi.2.2).symm.trans h
    exact .interrupted hh hd hi.1
  cases hs : s.sleep
  case true =>
    cases (State.stepWith_asleep hi hs).symm.trans h
    exact .idle (.inr (.inr hs))
  cases ha : s.answers .fetch s.cur.pc
  case false =>
    cases (State.stepWith_silent hh hd hs hi ha).symm.trans h
    exact .stuck hh ha
  have hr : Running s x := ⟨hh, hd, hs, hi, ha⟩
  rcases s.fetchWord_cases s.cur.pc with ⟨w, -, -, hf | hf⟩ | ⟨-, hf⟩ | ⟨-, hf⟩
  · rw [State.stepWith_word hr hf] at h
    exact State.runFetched_stepped (k := 0) hr h
  · rw [State.stepWith_word hr hf] at h
    exact State.runFetched_stepped hr h
  · rw [State.stepWith_word hr hf] at h
    exact State.runFetched_stepped hr h
  · cases (State.stepWith_fetchFault hr hf).symm.trans h
    exact .fetchFault hr

/-! ### The status bits through a step -/

section
variable {P : Status → Prop} (hP : ∀ σ τ : Status, σ.Next τ → P σ → P τ)
include hP

theorem exec_keeps {i : Instr} {s t : State} (h : exec i s = .next t) : P s.status → P t.status :=
  hP _ _ (exec_status_next h)

theorem WordRun.keeps {ws : List (Word × Word)} {b t : State} (h : WordRun ws b t) (hb : P b.status) : P t.status := by
  cases h with
  | one hi => exact (exec_keeps hP hi hb :)
  | illegal => exact hP _ _ (b.raise_next _ nofun) hb
  | two hi _ hj =>
    refine exec_keeps hP hj ?_
    rw [State.admitWrites_status]
    exact exec_keeps hP hi hb

theorem State.endWord_keeps {s : State} (wasUser isLock : Bool) (hs : P s.status) : P (s.endWord wasUser isLock).status := by
  rcases s.endWord_cases wasUser isLock with ⟨-, e⟩ | ⟨-, ⟨-, hg, -, -⟩, e⟩ | ⟨-, -, e⟩ <;> rw [e]
  · exact hs
  · exact hP _ _ (.left (σ := s.status) hg) hs
  · exact hs

theorem Stepped.keeps {s t : State} {x : Input} (h : Stepped s x t) (hs : P s.status) : P t.status := by
  cases h with
  | idle | stuck => exact hs
  | interrupted _ _ hg => exact hP _ _ (.left hg) hs
  | fetchFault =>
    have hb : P ({ s.beginWord with lockCount := 0 } : State).status := s.beginWord_status.symm ▸ hs
    exact hP _ _ (State.raise_next _ _ nofun) hb
  | ran _ k d hu =>
    refine State.endWord_keeps hP _ _ (hu.keeps hP ?_)
    rw [State.begun, State.beginWord_status, State.admitWrites_status]
    exact hs

theorem State.stepWith_keeps {s t : State} {x : Input} (h : s.stepWith x = .next t) (hs : P s.status) : P t.status :=
  (State.stepWith_stepped h).keeps hP hs

end

end Sys2Proof.Machine
end

section
/-! Invariants of the step: memory, the LOCK span and the bus; FPE, sleep and the user's cause bits; and the platform. -/

namespace Sys2Proof.Machine

open Sys2Proof.Claims

/-! ### What comes from outside -/

section
variable {s t : State}

@[simp] theorem arrived_status (s : State) : (arrived s).status = s.status := by simp [arrived]

theorem State.debugWriteReg_status {i : RegNum} (hi : i ≠ ccReg) (user : Bool) (v : Word) :
    (s.debugWriteReg user i v).status = s.status := by
  have hupd (rs : RegSet) : (if i = pcReg then { rs with pc := v } else rs.put i v).causes = rs.causes := by
    split <;> rfl
  cases user <;> simp [State.debugWriteReg, hi, State.status, hupd]

/-- A step under the debugger is a step of the released CPU, which it then holds again unless the bus deadlocked (R372). -/
theorem State.debugStep_cases {x : Input} (h : s.debugStep x = .next t) :
    ∃ u, s.release.stepWith x = .next u ∧
      ((u.halted = none ∧ u.busDeadlocked = false ∧ t = { u with halted := some .debugger }) ∨
        ((u.halted ≠ none ∨ u.busDeadlocked = true) ∧ t = u)) := by
  obtain ⟨u, hu, ht⟩ := Outcome.andThen_eq_next h
  refine ⟨u, hu, ?_⟩
  by_cases hc : u.halted = none ∧ u.busDeadlocked = false
  · rw [if_pos (by simp [hc])] at ht
    cases ht
    exact .inl ⟨hc.1, hc.2, rfl⟩
  · rw [if_neg (by simpa using hc)] at ht
    cases ht
    refine .inr ⟨?_, rfl⟩
    by_contra hn
    simp at hn
    exact hc hn

section
variable {P : Status → Prop} (hP : ∀ σ τ : Status, σ.Next τ → P σ → P τ)
  (hhalted : ∀ (σ : Status) (r : Option HaltReason), P σ → P { σ with halted := r })
  (hreset : ∀ a : Word, P (State.resetAt a).status)
include hP hhalted hreset

/-- What every instruction keeps of the status bits, whether or not the CPU is halted, and a reset establishes, every host
action keeps but a write of CC by the debugger. -/
theorem State.hostAct_keeps {x : Input} {act : HostAction} (hcc : ∀ u v, act ≠ .writeReg u ccReg v)
    (h : s.hostAct x act = .next t) (hs : P s.status) : P t.status := by
  cases act with
  | reset => cases h; exact hreset s.resetAddress
  | halt => cases h; exact hhalted s.status _ hs
  | release => cases h; exact hhalted s.status none hs
  | stepOne =>
    obtain ⟨u, hu, ht⟩ := State.debugStep_cases h
    have hu' : P u.status := State.stepWith_keeps hP hu (hhalted s.status none hs)
    rcases ht with ⟨-, -, rfl⟩ | ⟨-, rfl⟩
    · exact hhalted u.status _ hu'
    · exact hu'
  | writeReg user i v =>
    have hi : i ≠ ccReg := fun e => hcc user v (e ▸ rfl)
    cases h
    rw [State.queueWrites_status, State.debugWriteReg_status hi]
    exact hs
  | writeMem a v =>
    cases h
    rw [State.queueWrites_status, State.admitWrites_status]
    exact hs

theorem step_keeps (hcc : NoDebugCC s) (h : step s = .next t) (hs : P s.status) : P t.status := by
  rw [← arrived_status] at hs
  rcases step_cases h with ⟨act, hact, -, hrun⟩ | hrun
  · exact State.hostAct_keeps hP hhalted hreset (fun u v e => hcc u v (e ▸ hact)) hrun hs
  · exact State.stepWith_keeps hP hrun hs

end

end

/-! ### FPE, cause bits and sleep -/

/-- FPE clear in both sets (R355). -/
def Status.FpeClear (σ : Status) : Prop := σ.sup.fpe = false ∧ σ.usr.fpe = false

/-- In user mode no cause bit is set (R363). -/
def Status.NoStaleCause (σ : Status) : Prop :=
  σ.gie = true → σ.trap = false ∧ σ.usr.ill = false ∧ σ.usr.buserr = false ∧ σ.usr.dive = false

/-- A CPU is asleep in user mode or halted only (R31). -/
def Status.AsleepOk (σ : Status) : Prop := σ.sleep = true → σ.gie = true ∨ σ.halted.isSome = true

/-- TRAP is set in supervisor mode only (R36, R363). -/
def Status.TrapOutside (σ : Status) : Prop := σ.trap = true → σ.gie = false

section
variable {σ τ : Status}

theorem Causes.set_fpe (c : Causes) {e : Exc} (he : e ≠ .floatingPoint) : (c.set e).fpe = c.fpe := by
  cases e
  case floatingPoint => exact absurd rfl he
  all_goals rfl

/-- Nothing sets FPE, and a return to user mode clears the user's (R355, R363). -/
theorem Status.Next.fpe (h : σ.Next τ) :
    τ.sup.fpe = σ.sup.fpe ∧ (τ.usr.fpe = σ.usr.fpe ∨ τ.usr.fpe = false) := by
  cases h with
  | exceptionTaken _ e he => exact ⟨rfl, .inl (σ.usr.set_fpe he)⟩
  | exceptionHalt _ e he => exact ⟨σ.sup.set_fpe he, .inl rfl⟩
  | returned => exact ⟨rfl, .inr rfl⟩
  | _ => exact ⟨rfl, .inl rfl⟩

theorem Status.Next.fpeClear (h : σ.Next τ) (hs : σ.FpeClear) : τ.FpeClear :=
  ⟨h.fpe.1.trans hs.1, h.fpe.2.elim (·.trans hs.2) id⟩

theorem Status.Next.noStaleCause (h : σ.Next τ) (hs : σ.NoStaleCause) : τ.NoStaleCause := by
  cases h with
  | trapped | left | exceptionTaken => exact nofun
  | returned => exact fun _ => ⟨rfl, rfl, rfl, rfl⟩
  | _ => exact hs

theorem Status.Next.asleepOk (h : σ.Next τ) (hs : σ.AsleepOk) : τ.AsleepOk := by
  cases h with
  | same => exact hs
  | sleepWritten hg => exact fun _ => .inl hg
  | trapped | left | exceptionTaken | modeWritten => exact nofun
  | returned => exact fun _ => .inl rfl
  | sleepHalt | exceptionHalt | breakHalt => exact fun _ => .inr rfl

theorem Status.Next.trapOutside (h : σ.Next τ) (hs : σ.TrapOutside) : τ.TrapOutside := by
  cases h with
  | trapped | left | exceptionTaken => exact fun _ => rfl
  | returned => exact nofun
  | _ => exact hs

end

/-- Under the debugger a CPU asleep in supervisor mode executes nothing, and is held again (R372). -/
theorem State.debugStep_asleepOk {s t : State} {x : Input} (hd : s.busDeadlocked = false) (h : s.debugStep x = .next t) :
    t.status.AsleepOk := by
  obtain ⟨u, hu, ht⟩ := State.debugStep_cases h
  have hheld : u.busDeadlocked = false → t.status.AsleepOk := by
    rcases ht with ⟨-, -, rfl⟩ | ⟨hstop, rfl⟩
    · exact fun _ _ => .inr rfl
    · intro hu _
      have hhalted : t.halted ≠ none := by simpa [hu] using hstop
      exact .inr (Option.isSome_iff_ne_none.2 hhalted)
  by_cases hasleep : s.sleep = true ∧ s.gie = false
  · rw [State.stepWith_asleep (s := s.release) (by simp [hasleep]) hasleep.1] at hu
    cases hu
    exact hheld hd
  · have hrelease : s.release.status.AsleepOk := by
      intro hsleep
      have hg : s.gie = true := by simpa using fun hg => hasleep ⟨hsleep, hg⟩
      exact .inl hg
    have hu' : u.status.AsleepOk := State.stepWith_keeps (fun _ _ hn => hn.asleepOk) hu hrelease
    rcases ht with ⟨-, -, rfl⟩ | ⟨-, rfl⟩
    · exact fun _ => .inr rfl
    · exact hu'

theorem step_asleepOk {s t : State} (hcc : NoDebugCC s)
    (hrelease : s.input.host = some .release → s.sleep = true → s.gie = true)
    (hd : s.busDeadlocked = true → s.halted = none) (h : step s = .next t) (hs : s.status.AsleepOk) : t.status.AsleepOk := by
  rw [← arrived_status] at hs
  rcases step_cases h with ⟨act, hact, happ, hrun⟩ | hrun
  case inr => exact State.stepWith_keeps (fun _ _ hn => hn.asleepOk) hrun hs
  cases act with
  | reset => cases hrun; exact nofun
  | halt =>
    cases hrun
    exact fun _ => .inr (by simp [State.status])
  | release =>
    cases hrun
    have hgie : (arrived s).sleep = true → (arrived s).gie = true := by simpa [arrived] using hrelease hact
    exact fun hsleep => .inl (hgie hsleep)
  | stepOne =>
    have hd' : (arrived s).busDeadlocked = false := by
      have hhalted : s.halted ≠ none := by
        simpa [HostAction.applies, arrived, Option.isSome_iff_ne_none] using happ
      simpa [arrived] using fun e => hhalted (hd e)
    exact State.debugStep_asleepOk hd' hrun
  | writeReg user i v =>
    have hi : i ≠ ccReg := fun e => hcc user v (e ▸ hact)
    cases hrun
    rw [State.queueWrites_status, State.debugWriteReg_status hi]
    exact hs
  | writeMem a v =>
    cases hrun
    rw [State.queueWrites_status, State.admitWrites_status]
    exact hs

/-! ### Memory, the LOCK span and a deadlocked bus -/

/-- Memory in canonical form and a LOCK span within its bound (R282). -/
def State.Bounded (s : State) : Prop := s.mem.wf ∧ s.lockCount ≤ Config.lockSpan

section
variable {s t : State}

theorem State.Bounded.of_eq (hs : s.Bounded) (hm : t.mem = s.mem) (hl : t.lockCount ≤ s.lockCount) : t.Bounded :=
  ⟨hm ▸ hs.1, hl.trans hs.2⟩

theorem State.writeCC_lockCount_le (v : Word) : (s.writeCC v).lockCount ≤ s.lockCount := by
  cases hg : s.gie
  · rw [State.writeCC_sup s v hg, State.writeCCSupervisor_lockCount]
  · rw [State.writeCC_user s v hg]
    rcases s.writeCCUser_cases v with ⟨-, e⟩ | ⟨-, e⟩ <;> simp [e]

theorem State.writeReg_lockCount_le (i : RegNum) (v : Word) : (s.writeReg i v).lockCount ≤ s.lockCount := by
  by_cases hi : i = ccReg
  · rw [hi, State.writeReg_cc]
    exact State.writeCC_lockCount_le v
  · exact (State.writeReg_lockCount hi v).le

theorem State.writeResult_lockCount_le (cnd : Cond) (dr : RegNum) (r : Word) (cv : CarryOverflow) :
    (s.writeResult cnd dr r cv).lockCount ≤ s.lockCount := by
  unfold State.writeResult
  dsimp only
  split
  · rw [State.writeFlags_lockCount]
    exact State.writeReg_lockCount_le dr r
  · exact State.writeReg_lockCount_le dr r

theorem State.raise_lockCount_le (e : Exc) : (s.raise e).lockCount ≤ s.lockCount := by
  cases hg : s.gie
  · rw [State.raise_sup s e hg]; simp
  · rw [State.raise_user s e hg]; simp

theorem State.breakTrap_lockCount_le : s.breakTrap.lockCount ≤ s.lockCount := by
  rcases s.breakTrap_cases with ⟨-, e⟩ | ⟨-, -, e⟩ <;> simp [e]

theorem State.admitWrites_bounded (ws : List (Word × Word)) (hs : s.Bounded) : (s.admitWrites ws).Bounded := by
  rcases s.admitWrites_cases ws with ⟨-, m, st, e, hm⟩ | ⟨-, e⟩ <;> rw [e]
  · exact ⟨hm hs.1, hs.2⟩
  · exact hs

theorem Effect.bounded (h : Effect s t) (hs : s.Bounded) : t.Bounded := by
  cases h with
  | result => exact hs.of_eq (by simp) (State.writeResult_lockCount_le _ _ _ _)
  | compared => exact hs.of_eq (by simp) (by simp)
  | register => exact hs.of_eq (by simp) (State.writeReg_lockCount_le _ _)
  | userRegister => exact hs.of_eq (by simp) (by simp)
  | loaded e k => exact hs.of_eq (by simp) (State.writeReg_lockCount_le (s := (s.present e).countDraws k) _ _)
  | stored e a v => exact ⟨State.poke_mem_wf _ hs.1 a v, hs.2⟩
  | busError e =>
    exact hs.of_eq (by simp) ((State.raise_lockCount_le (s := { s.present e with lockCount := 0 }) _).trans (Nat.zero_le _))
  | illegal | divideByZero => exact hs.of_eq (by simp) (State.raise_lockCount_le _)
  | broke => exact hs.of_eq (by simp) State.breakTrap_lockCount_le
  | locked => exact ⟨hs.1, le_rfl⟩
  | nothing | storedOutside | stuck => exact hs

theorem exec_bounded {i : Instr} (h : exec i s = .next t) (hs : s.Bounded) : t.Bounded := (exec_effect i s t h).bounded hs

theorem WordRun.bounded {ws : List (Word × Word)} (h : WordRun ws s t) (hs : s.Bounded) : t.Bounded := by
  cases h with
  | one hi => exact (exec_bounded hi hs :)
  | illegal => exact hs.of_eq (by simp) (State.raise_lockCount_le _)
  | two hi _ hj => exact exec_bounded hj (State.admitWrites_bounded ws (exec_bounded hi hs))

theorem State.counted_lockCount_le (isLock : Bool) : (s.counted isLock).lockCount ≤ s.lockCount := by
  cases isLock <;> simp [State.counted]

theorem State.endWord_bounded (wasUser isLock : Bool) (hs : s.Bounded) : (s.endWord wasUser isLock).Bounded := by
  rcases s.endWord_cases wasUser isLock with ⟨-, e⟩ | ⟨-, -, e⟩ | ⟨-, -, e⟩ <;> rw [e]
  · exact hs
  · exact hs.of_eq rfl (Nat.zero_le _)
  · exact hs.of_eq rfl (State.counted_lockCount_le isLock)

theorem State.begun_bounded (x : Input) (k : Nat) (hs : s.Bounded) : (s.begun x k).Bounded :=
  (State.admitWrites_bounded (s := s.countDraws k) x.afterFetch hs).of_eq (by simp [State.begun]) (by simp [State.begun])

theorem Stepped.bounded {x : Input} (h : Stepped s x t) (hs : s.Bounded) : t.Bounded := by
  cases h with
  | idle | stuck => exact hs
  | interrupted => exact hs.of_eq rfl (Nat.zero_le _)
  | fetchFault =>
    exact hs.of_eq (by simp [State.fetchFault])
      ((State.raise_lockCount_le (s := { s.beginWord with lockCount := 0 }) _).trans (Nat.zero_le _))
  | ran _ k d hu => exact State.endWord_bounded _ _ (hu.bounded (State.begun_bounded x k hs))

theorem State.writeReg_halted_or_control (i : RegNum) (v : Word) :
    (s.writeReg i v).halted = s.halted ∨ (s.writeReg i v).control = true := by
  by_cases hi : i = ccReg
  · rw [hi, State.writeReg_cc]
    cases hg : s.gie
    · rw [State.writeCC_sup s v hg]
      rcases s.writeCCSupervisor_cases v with ⟨-, e⟩ | ⟨-, -, e⟩ | ⟨-, -, e⟩ <;> simp [e]
    · rw [State.writeCC_user s v hg]
      rcases s.writeCCUser_cases v with ⟨-, e⟩ | ⟨-, e⟩ <;> simp [e]
  · exact .inl (congrArg Status.halted (s.writeReg_status hi v))

/-- A halt is a control event (R157, R370). -/
theorem Effect.halted_or_control (h : Effect s t) : t.halted = s.halted ∨ t.control = true := by
  cases h with
  | result cnd dr r cv =>
    unfold State.writeResult
    dsimp only
    split
    · simpa using State.writeReg_halted_or_control dr r
    · exact State.writeReg_halted_or_control dr r
  | compared => exact .inl (by simp)
  | register dr v => exact State.writeReg_halted_or_control dr v
  | userRegister => exact .inl (by simp)
  | loaded e k dr v => exact State.writeReg_halted_or_control (s := (s.present e).countDraws k) dr v
  | busError | illegal | divideByZero => exact .inr (State.raise_control _ _)
  | broke => exact .inr s.breakTrap_control
  | nothing | stored | storedOutside | stuck | locked => exact .inl rfl

/-- Only an access that is never answered deadlocks the bus, which is a control event and no halt (R85). -/
theorem Effect.deadlock (h : Effect s t) :
    t.busDeadlocked = s.busDeadlocked ∨ (t.control = true ∧ t.halted = s.halted) := by
  cases h with
  | stuck => exact .inr ⟨rfl, rfl⟩
  | _ => exact .inl (by simp)

theorem exec_stuckNotHalted {i : Instr} (h : exec i s = .next t) (hd : s.busDeadlocked = false) (hh : s.halted = none)
    (ht : t.busDeadlocked = true) : t.halted = none := by
  rcases (exec_effect i s t h).deadlock with e | ⟨-, e⟩
  · simp [e, hd] at ht
  · exact e.trans hh

theorem WordRun.stuckNotHalted {ws : List (Word × Word)} (h : WordRun ws s t) (hd : s.busDeadlocked = false)
    (hh : s.halted = none) (ht : t.busDeadlocked = true) : t.halted = none := by
  cases h with
  | one hi => exact (exec_stuckNotHalted hi hd hh ht :)
  | illegal => simp [hd] at ht
  | @two i j u v hi hc hj =>
    have hu : u.busDeadlocked = false := by
      rcases (exec_effect i s u hi).deadlock with e | ⟨e, -⟩
      · exact e.trans hd
      · simp [hc] at e
    have hu' : u.halted = none := by
      rcases (exec_effect i s u hi).halted_or_control with e | e
      · exact e.trans hh
      · simp [hc] at e
    exact exec_stuckNotHalted hj (by simpa using hu) (by simpa using hu') ht

theorem Stepped.stuckNotHalted {x : Input} (h : Stepped s x t) (hs : s.busDeadlocked = true → s.halted = none)
    (ht : t.busDeadlocked = true) : t.halted = none := by
  cases h with
  | idle => exact hs ht
  | interrupted hh | stuck hh => exact hh
  | fetchFault hr => simp [State.fetchFault, hr.2.1] at ht
  | @ran hr k d u hu =>
    have hb : (s.begun x k).busDeadlocked = false ∧ (s.begun x k).halted = none := by
      simp [State.begun, hr.1, hr.2.1]
    rcases u.endWord_cases s.gie d.isLock with ⟨hd, e⟩ | ⟨hd, -, e⟩ | ⟨hd, -, e⟩ <;> rw [e] at ht ⊢
    · exact hu.stuckNotHalted hb.1 hb.2 hd
    · exact absurd (hd.symm.trans ht) nofun
    · exact absurd (hd.symm.trans ht) nofun

theorem State.stepWith_sound {x : Input} (h : s.stepWith x = .next t) (hs : s.Sound) : t.Sound := by
  have hstep := State.stepWith_stepped h
  obtain ⟨hm, hl⟩ := hstep.bounded ⟨hs.memory, hs.lockSpan⟩
  exact ⟨hm, hl, hstep.stuckNotHalted hs.stuckNotHalted⟩

section
variable (s : State) (user : Bool) (i : RegNum) (v : Word)

@[simp] theorem State.debugWriteReg_mem : (s.debugWriteReg user i v).mem = s.mem := by
  unfold State.debugWriteReg; split <;> [rfl; (dsimp only; split <;> rfl)]
@[simp] theorem State.debugWriteReg_lockCount : (s.debugWriteReg user i v).lockCount = s.lockCount := by
  unfold State.debugWriteReg; split <;> [rfl; (dsimp only; split <;> rfl)]
@[simp] theorem State.debugWriteReg_halted : (s.debugWriteReg user i v).halted = s.halted := by
  unfold State.debugWriteReg; split <;> [rfl; (dsimp only; split <;> rfl)]
@[simp] theorem State.debugWriteReg_busDeadlocked : (s.debugWriteReg user i v).busDeadlocked = s.busDeadlocked := by
  unfold State.debugWriteReg; split <;> [rfl; (dsimp only; split <;> rfl)]
@[simp] theorem State.debugWriteReg_regions : (s.debugWriteReg user i v).regions = s.regions := by
  unfold State.debugWriteReg; split <;> [rfl; (dsimp only; split <;> rfl)]
@[simp] theorem State.debugWriteReg_resetAddress : (s.debugWriteReg user i v).resetAddress = s.resetAddress := by
  unfold State.debugWriteReg; split <;> [rfl; (dsimp only; split <;> rfl)]

end

theorem State.hostAct_sound {x : Input} {act : HostAction} (ha : act.applies s = true) (h : s.hostAct x act = .next t)
    (hs : s.Sound) : t.Sound := by
  have hrelease : s.release.Sound := ⟨hs.memory, hs.lockSpan, fun _ => rfl⟩
  cases act with
  | reset => cases h; exact ⟨hs.memory, Nat.zero_le _, nofun⟩
  | halt =>
    cases h
    have hd : s.busDeadlocked = false := by simpa [HostAction.applies] using ha
    exact ⟨hs.memory, hs.lockSpan, fun hd' => absurd (hd.symm.trans hd') nofun⟩
  | release => cases h; exact ⟨hs.memory, hs.lockSpan, fun _ => rfl⟩
  | stepOne =>
    obtain ⟨u, hu, ht⟩ := State.debugStep_cases h
    have hus : u.Sound := State.stepWith_sound hu hrelease
    rcases ht with ⟨-, hd, rfl⟩ | ⟨-, rfl⟩
    · exact ⟨hus.memory, hus.lockSpan, fun hd' => absurd (hd.symm.trans hd') nofun⟩
    · exact hus
  | writeReg user i v =>
    cases h
    exact ⟨by simpa using hs.memory, by simpa using hs.lockSpan, by simpa using hs.stuckNotHalted⟩
  | writeMem a v =>
    cases h
    obtain ⟨hm, hl⟩ := State.admitWrites_bounded [(a, v)] ⟨hs.memory, hs.lockSpan⟩
    exact ⟨hm, hl, by simpa using hs.stuckNotHalted⟩

theorem arrived_sound (hs : s.Sound) : (arrived s).Sound := by
  obtain ⟨hm, hl⟩ := State.admitWrites_bounded (s := s.popInput) s.input.writes ⟨hs.memory, hs.lockSpan⟩
  exact ⟨hm, hl, by simpa [arrived] using hs.stuckNotHalted⟩

theorem step_sound (h : step s = .next t) (hs : s.Sound) : t.Sound := by
  rcases step_cases h with ⟨act, -, ha, hrun⟩ | hrun
  · exact State.hostAct_sound ha hrun (arrived_sound hs)
  · exact State.stepWith_sound hrun (arrived_sound hs)

/-! ### The whole invariant -/

theorem State.inv_iff_status (s : State) :
    s.Inv ↔ s.Sound ∧ s.status.FpeClear ∧ s.status.AsleepOk ∧ s.status.NoStaleCause :=
  ⟨fun h => ⟨h.toSound, ⟨h.supFpe, h.usrFpe⟩, h.asleep, h.noStaleCause⟩,
    fun ⟨hs, hf, ha, hc⟩ => ⟨hs, hf.1, hf.2, ha, hc⟩⟩

theorem step_fpeClear (hcc : NoDebugCC s) (h : step s = .next t) (hs : s.status.FpeClear) : t.status.FpeClear :=
  step_keeps (fun _ _ hn => hn.fpeClear) (fun _ _ hs => hs) (fun _ => ⟨rfl, rfl⟩) hcc h hs

theorem step_noStaleCause (hcc : NoDebugCC s) (h : step s = .next t) (hs : s.status.NoStaleCause) :
    t.status.NoStaleCause :=
  step_keeps (fun _ _ hn => hn.noStaleCause) (fun _ _ hs => hs) (fun _ => nofun) hcc h hs

theorem step_inv (hcc : NoDebugCC s) (hrelease : s.input.host = some .release → s.sleep = true → s.gie = true)
    (h : step s = .next t) (hs : s.Inv) : t.Inv := by
  obtain ⟨hsound, hfpe, hasleep, hcause⟩ := s.inv_iff_status.1 hs
  exact t.inv_iff_status.2 ⟨step_sound h hsound, step_fpeClear hcc h hfpe,
    step_asleepOk hcc hrelease hsound.stuckNotHalted h hasleep, step_noStaleCause hcc h hcause⟩

end

end Sys2Proof.Machine

namespace Sys2Proof.Proofs

open Sys2Proof.Machine Sys2Proof.Claims

/-- Settles O59: each part of the invariant is kept by every instruction, by the step around it and by every host action. -/
theorem stepKeepsTheInvariant : Obligations.StepKeepsTheInvariant :=
  fun _ _ h => ⟨step_sound h, fun hs hcc hrelease => step_inv hcc hrelease h hs⟩

/-- Settles O58: reset lists no memory, opens no LOCK span and sets no bit. -/
theorem resetMeetsTheInvariant : Obligations.ResetMeetsTheInvariant := by
  have hreset (a : Word) : (State.resetAt a).Inv :=
    ⟨⟨⟨.nil, nofun⟩, Nat.zero_le _, nofun⟩, rfl, rfl, nofun, nofun⟩
  exact ⟨hreset _, hreset⟩

/-- Settles O57, from the values of a register set and of the state after reset. -/
theorem resetLeavesTheStatedValues : Obligations.ResetLeavesTheStatedValues := by
  refine ⟨fun a => ?_, rfl, fun s => ⟨?_, rfl, rfl⟩⟩
  all_goals exact ⟨rfl, rfl, rfl, rfl, rfl, rfl, rfl, rfl, rfl, rfl, rfl, rfl, rfl, rfl, rfl, rfl⟩

end Sys2Proof.Proofs
end

section
/-! Bits that stay or are set in one way only (R33, R35 to R37), and the platform on which the bus never deadlocks (R412). -/

namespace Sys2Proof.Machine

open Sys2Proof.Claims

/-! ### Exception bits of the supervisor set -/

theorem Causes.set_of_set (c : Causes) (e : Exc) :
    (c.ill = true → (c.set e).ill = true) ∧ (c.buserr = true → (c.set e).buserr = true) ∧
    (c.dive = true → (c.set e).dive = true) := by
  cases e <;> simp [Causes.set]

/-- No instruction clears an exception bit of the supervisor set (R40). -/
theorem Status.Next.supCauses {σ τ : Status} (h : σ.Next τ) :
    (σ.sup.ill = true → τ.sup.ill = true) ∧ (σ.sup.buserr = true → τ.sup.buserr = true) ∧
    (σ.sup.dive = true → τ.sup.dive = true) := by
  cases h with
  | exceptionHalt _ e => exact σ.sup.set_of_set e
  | _ => exact ⟨id, id, id⟩

section
variable {s t : State}

theorem step_keeps_of_no_host {P : Status → Prop} (hP : ∀ σ τ : Status, σ.Next τ → P σ → P τ)
    (hh : s.input.host = none) (h : step s = .next t) (hs : P s.status) : P t.status := by
  rw [step_of_no_host hh] at h
  exact State.stepWith_keeps hP h (by rwa [arrived_status])

/-! ### TRAP -/

@[simp] theorem State.raise_trap (s : State) (e : Exc) : (s.raise e).trap = s.trap := by
  unfold State.raise
  split <;> rfl

theorem WordRun.trap_supervisor {ws : List (Word × Word)} (h : WordRun ws s t) (hg : s.gie = false) (hs : s.trap = false) :
    t.trap = false := by
  have hexec {i : Instr} {b u : State} (hb : b.gie = false) (htrap : b.trap = false) (hi : exec i b = .next u) :
      u.trap = false := by
    by_contra hu
    have hset : u.trap = true := by simpa using hu
    exact absurd (hb.symm.trans ((exec_status_next hi).trap htrap hset).1) nofun
  cases h with
  | one hi => exact (hexec hg hs hi :)
  | illegal => simpa using hs
  | @two i j u v hi hc hj =>
    have hu : u.gie = false := by
      rcases (exec_effect i s u hi).gie_or_control with e | e
      · exact e.trans hg
      · simp [hc] at e
    exact hexec (by simpa using hu) (by simpa using hexec hg hs hi) hj

/-- No step of the CPU sets TRAP in supervisor mode (R36). -/
theorem State.stepWith_trap_supervisor {x : Input} (h : s.stepWith x = .next t) (hg : s.gie = false)
    (hs : s.trap = false) : t.trap = false := by
  cases State.stepWith_stepped h with
  | idle | stuck => exact hs
  | interrupted _ _ hg' => exact absurd (hg.symm.trans hg') nofun
  | fetchFault => simpa [State.fetchFault] using hs
  | @ran hr k d u hu =>
    have hu' : u.trap = false := hu.trap_supervisor (by simpa [State.begun] using hg) (by simpa [State.begun] using hs)
    rcases u.endWord_cases s.gie d.isLock with ⟨-, e⟩ | ⟨-, -, e⟩ | ⟨-, -, e⟩ <;> rw [e] <;> exact hu'

theorem State.hostAct_trap_supervisor {x : Input} {act : HostAction} (hcc : ∀ u v, act ≠ .writeReg u ccReg v)
    (h : s.hostAct x act = .next t) (hg : s.gie = false) (hs : s.trap = false) : t.trap = false := by
  cases act with
  | reset => cases h; rfl
  | halt | release => cases h; exact hs
  | stepOne =>
    obtain ⟨u, hu, ht⟩ := State.debugStep_cases h
    have hu' : u.trap = false := State.stepWith_trap_supervisor (s := s.release) hu hg hs
    rcases ht with ⟨-, -, rfl⟩ | ⟨-, rfl⟩ <;> exact hu'
  | writeReg user i v =>
    have hi : i ≠ ccReg := fun e => hcc user v (e ▸ rfl)
    cases h
    exact (congrArg Status.trap (State.debugWriteReg_status hi user v)).trans hs
  | writeMem a v => cases h; simpa using hs

theorem step_trap_supervisor (hcc : NoDebugCC s) (h : step s = .next t) (hg : s.gie = false) (hs : s.trap = false) :
    t.trap = false := by
  have hg' : (arrived s).gie = false := by simpa [arrived] using hg
  have hs' : (arrived s).trap = false := by simpa [arrived] using hs
  rcases step_cases h with ⟨act, hact, -, hrun⟩ | hrun
  · exact State.hostAct_trap_supervisor (fun u v e => hcc u v (e ▸ hact)) hrun hg' hs'
  · exact State.stepWith_trap_supervisor hrun hg' hs'

/-- After a step, TRAP newly set stands in supervisor mode only (R36, R363). -/
theorem step_trapOutside (hcc : NoDebugCC s) (h : step s = .next t) (hs : s.status.TrapOutside) : t.status.TrapOutside :=
  step_keeps (fun _ _ hn => hn.trapOutside) (fun _ _ hs => hs) (fun _ => nofun) hcc h hs

/-! ### STEP -/

theorem WordRun.user_step {ws : List (Word × Word)} (h : WordRun ws s t) (hg : s.gie = true) :
    (t.gie = true ∧ t.stepBit = s.stepBit) ∨ (t.gie = false ∧ t.stepBit = false) := by
  have hexec {i : Instr} {b u : State} (hb : b.gie = true) (hi : exec i b = .next u) :
      (u.gie = true ∧ u.stepBit = b.stepBit) ∨ (u.gie = false ∧ u.stepBit = false) :=
    ((exec_status_next hi).user_step hb).2
  cases h with
  | one hi => exact (hexec hg hi :)
  | illegal => exact .inr (by simp [s.raise_user _ hg])
  | @two i j u v hi hc hj =>
    have hu : u.gie = true := by
      rcases (exec_effect i s u hi).gie_or_control with e | e
      · exact e.trans hg
      · simp [hc] at e
    have hstep : u.stepBit = s.stepBit := by
      rcases hexec hg hi with ⟨-, e⟩ | ⟨e, -⟩
      · exact e
      · simp [hu] at e
    simpa [hstep] using hexec (b := u.admitWrites ws) (by simpa using hu) hj

/-- A word that ran with STEP set ends user mode, halts, or is stuck (R33, R358). -/
theorem State.endWord_step {isLock : Bool} (hstep : s.gie = true ∧ s.stepBit = true ∨ s.gie = false ∧ s.stepBit = false) :
    let t := s.endWord true isLock
    (t.gie = false ∧ t.stepBit = false) ∨ t.halted ≠ none ∨ t.busDeadlocked = true := by
  rcases s.endWord_cases true isLock with ⟨hd, e⟩ | ⟨-, -, e⟩ | ⟨-, hback, e⟩ <;> rw [e]
  · exact .inr (.inr hd)
  · exact .inl ⟨rfl, rfl⟩
  · rcases hstep with ⟨hg, hst⟩ | hleft
    · exact .inr (.inl fun hh => hback ⟨rfl, hg, hst, hh⟩)
    · exact .inl hleft

theorem Stepped.user_step {x : Input} (h : Stepped s x t) (hr : Running s x) (hg : s.gie = true) (hst : s.stepBit = true) :
    (t.gie = false ∧ t.stepBit = false) ∨ t.halted ≠ none ∨ t.busDeadlocked = true := by
  obtain ⟨hh, hd, hs, -, ha⟩ := hr
  cases h with
  | idle hidle => simp [hh, hd, hs] at hidle
  | interrupted => exact .inl ⟨rfl, rfl⟩
  | stuck => exact .inr (.inr rfl)
  | fetchFault =>
    have hraise := State.raise_user ({ s.beginWord with lockCount := 0 } : State) .illegalInstruction (by simpa using hg)
    rw [State.queueWrites_gie, State.queueWrites_stepBit, State.fetchFault, hraise]
    exact .inl ⟨rfl, rfl⟩
  | @ran hr k d u hu =>
    rw [hg]
    refine State.endWord_step ?_
    simpa [State.begun, hst] using hu.user_step (by simpa [State.begun] using hg)

/-! ### A platform that answers -/

/-- The bus is deadlocked no more than before, and the platform's map and reset address are the same. -/
structure PlatformFrame (s t : State) : Prop where
  busDeadlocked : t.busDeadlocked = s.busDeadlocked
  regions : t.regions = s.regions
  resetAddress : t.resetAddress = s.resetAddress

theorem PlatformFrame.trans {u : State} (h : PlatformFrame s t) (h' : PlatformFrame t u) : PlatformFrame s u :=
  ⟨h'.busDeadlocked.trans h.busDeadlocked, h'.regions.trans h.regions, h'.resetAddress.trans h.resetAddress⟩

/-- No region leaves an access unanswered (R412). -/
def NoSilentRegion (s : State) : Prop := ∀ g ∈ s.regions, g.silent = []

theorem PlatformFrame.noSilentRegion (h : PlatformFrame s t) (hs : NoSilentRegion s) : NoSilentRegion t :=
  fun g hg => hs g (h.regions ▸ hg)

theorem NoSilentRegion.answers (hs : NoSilentRegion s) (k : Access) (a : Word) : s.answers k a = true := by
  unfold State.answers
  split
  case h_1 g hg => simp [hs g (List.mem_of_find?_eq_some hg)]
  case h_2 => rfl

theorem Does.platformFrame {i : Instr} (h : Does i s t) (hs : NoSilentRegion s) : PlatformFrame s t := by
  cases h with
  | @stuck k a ha => exact absurd ((hs.answers k a).symm.trans ha) nofun
  | _ => exact ⟨by simp, by simp, by simp⟩

theorem exec_platformFrame {i : Instr} (h : exec i s = .next t) (hs : NoSilentRegion s) : PlatformFrame s t :=
  (exec_does h).platformFrame hs

theorem State.admitWrites_platformFrame (s : State) (ws : List (Word × Word)) : PlatformFrame s (s.admitWrites ws) :=
  ⟨by simp, by simp, by simp⟩

theorem WordRun.platformFrame {ws : List (Word × Word)} (h : WordRun ws s t) (hs : NoSilentRegion s) :
    PlatformFrame s t := by
  cases h with
  | one hi => exact (exec_platformFrame hi hs).trans ⟨rfl, rfl, rfl⟩
  | illegal => exact ⟨by simp, by simp, by simp⟩
  | @two i j u v hi hc hj =>
    have hu := (exec_platformFrame hi hs).trans (u.admitWrites_platformFrame ws)
    exact hu.trans (exec_platformFrame hj (hu.noSilentRegion hs))

theorem State.endWord_platformFrame (s : State) (wasUser isLock : Bool) : PlatformFrame s (s.endWord wasUser isLock) := by
  rcases s.endWord_cases wasUser isLock with ⟨-, e⟩ | ⟨-, -, e⟩ | ⟨-, -, e⟩ <;> rw [e] <;> exact ⟨rfl, rfl, rfl⟩

theorem State.stepWith_platformFrame {x : Input} (h : s.stepWith x = .next t) (hs : NoSilentRegion s) :
    PlatformFrame s t := by
  cases State.stepWith_stepped h with
  | idle | interrupted => exact ⟨rfl, rfl, rfl⟩
  | stuck _ ha => exact absurd ((hs.answers _ _).symm.trans ha) nofun
  | fetchFault => exact ⟨by simp [State.fetchFault], by simp [State.fetchFault], by simp [State.fetchFault]⟩
  | @ran hr k d u hu =>
    have hb : PlatformFrame s (s.begun x k) := ⟨by simp [State.begun], by simp [State.begun], by simp [State.begun]⟩
    exact (hb.trans (hu.platformFrame (hb.noSilentRegion hs))).trans (u.endWord_platformFrame _ _)

theorem State.hostAct_platformFrame {x : Input} {act : HostAction} (h : s.hostAct x act = .next t) (hs : NoSilentRegion s)
    (hd : s.busDeadlocked = false) : PlatformFrame s t := by
  cases act with
  | reset => cases h; exact ⟨hd.symm, rfl, rfl⟩
  | halt | release => cases h; exact ⟨rfl, rfl, rfl⟩
  | stepOne =>
    obtain ⟨u, hu, ht⟩ := State.debugStep_cases h
    have hrelease : PlatformFrame s s.release := ⟨rfl, rfl, rfl⟩
    have hu' := hrelease.trans (State.stepWith_platformFrame hu hs)
    rcases ht with ⟨-, -, rfl⟩ | ⟨-, rfl⟩
    · exact hu'.trans ⟨rfl, rfl, rfl⟩
    · exact hu'
  | writeReg user i v => cases h; exact ⟨by simp, by simp, by simp⟩
  | writeMem a v => cases h; exact ⟨by simp, by simp, by simp⟩

theorem arrived_platformFrame (s : State) : PlatformFrame s (arrived s) :=
  ⟨by simp [arrived], by simp [arrived], by simp [arrived]⟩

theorem step_platformFrame (h : step s = .next t) (hs : s.AlwaysAnswered) : PlatformFrame s t := by
  have ha := arrived_platformFrame s
  have hs' : NoSilentRegion (arrived s) := ha.noSilentRegion hs.2
  rcases step_cases h with ⟨act, -, -, hrun⟩ | hrun
  · exact ha.trans (State.hostAct_platformFrame hrun hs' (ha.busDeadlocked.trans hs.1))
  · exact ha.trans (State.stepWith_platformFrame hrun hs')

end

end Sys2Proof.Machine

namespace Sys2Proof.Proofs

open Sys2Proof.Machine Sys2Proof.Claims

/-- Settles O41: TRAP changes by a write of CC alone, which in supervisor mode never sets it; the step only runs
instructions, and a control event ends its word. -/
theorem trapBitSetOnlyByUserTrap : Obligations.TrapBitSetOnlyByUserTrap := by
  refine ⟨fun s v hg hv => ?_, fun i s t h hs ht => ?_, fun s t hcc h hs ht => ?_⟩
  · rw [State.writeReg_cc, State.writeCC_trapped hg hv]
    exact ⟨rfl, rfl⟩
  · obtain ⟨hg, hleft⟩ := (exec_status_next h).trap hs ht
    exact ⟨hg, hleft, ((exec_does h).wroteCC (.inl (by simp [hs, ht]))).1⟩
  · have hg : s.gie = true := by
      by_contra hg
      exact absurd ((step_trap_supervisor hcc h (by simpa using hg) hs).symm.trans ht) nofun
    exact ⟨hg, step_trapOutside hcc h (fun hset => absurd (hs.symm.trans hset) nofun) ht⟩

/-- Settles O45: no change of the status bits clears a cause bit of the supervisor set. -/
theorem supervisorExceptionBitsStay : Obligations.SupervisorExceptionBitsStay := by
  intro s t h hh
  refine ⟨?_, ?_, ?_⟩
  · exact step_keeps_of_no_host (P := fun σ => σ.sup.ill = true) (fun _ _ hn => hn.supCauses.1) hh h
  · exact step_keeps_of_no_host (P := fun σ => σ.sup.buserr = true) (fun _ _ hn => hn.supCauses.2.1) hh h
  · exact step_keeps_of_no_host (P := fun σ => σ.sup.dive = true) (fun _ _ hn => hn.supCauses.2.2) hh h

/-- Settles O46: no change of the status bits sets FPE. -/
theorem floatingPointBitStaysClear : Obligations.FloatingPointBitStaysClear := by
  refine ⟨fun s t hcc h hsup husr => step_fpeClear hcc h ⟨hsup, husr⟩, fun s v => (s.writeReg_next ccReg v).fpe, rfl, rfl,
    fun s hs => ?_⟩
  obtain ⟨-, -, -, -, hfpe⟩ := s.ccOf_causeBits s.cur s.gie
  rw [State.readReg_cc]
  exact hfpe.trans hs

/-- Settles O50: a word that runs in user mode keeps STEP or leaves with it clear, and its end returns. -/
theorem stepBitAllowsOneUserWord : Obligations.StepBitAllowsOneUserWord := by
  intro s t hh hr hg hst h
  rw [step_of_no_host hh] at h
  exact (State.stepWith_stepped h).user_step hr (by simpa [arrived] using hg) (by simpa [arrived] using hst)

/-- Settles O60: nothing but an access that is never answered deadlocks the bus, and nothing changes the map. -/
theorem answeringPlatformNeverSticks : Obligations.AnsweringPlatformNeverSticks := by
  intro s t hs h
  have hframe := step_platformFrame h hs
  exact ⟨⟨hframe.busDeadlocked.trans hs.1, hframe.noSilentRegion hs.2⟩, hframe.regions, hframe.resetAddress⟩

end Sys2Proof.Proofs
end

section
/-! Operands, conditions, shifts, products, quotients, load immediate and move (R152, R154, R185 to R189, R220 to R223, R260,
R261). -/

namespace Sys2Proof.Machine

open Sys2Proof.Claims

/-! ### Results -/

theorem lsrResult_eq (a b : Word) : lsrResult a b = BitVec.ofNat 32 (a.toNat / 2 ^ b.toNat) := by
  unfold lsrResult
  split
  case isTrue =>
    apply BitVec.eq_of_toNat_eq
    rw [BitVec.toNat_ushiftRight, Nat.shiftRight_eq_div_pow, BitVec.toNat_ofNat, Nat.mod_eq_of_lt]
    exact (Nat.div_le_self _ _).trans_lt a.isLt
  case isFalse h =>
    have hpow : 2 ^ 32 ≤ 2 ^ b.toNat := Nat.pow_le_pow_right (by omega) (by omega)
    rw [Nat.div_eq_of_lt (a.isLt.trans_le hpow)]

theorem lslResult_eq (a b : Word) : lslResult a b = BitVec.ofNat 32 (a.toNat * 2 ^ b.toNat) := by
  apply BitVec.eq_of_toNat_eq
  rw [BitVec.toNat_ofNat, lslResult]
  split
  case isTrue => rw [BitVec.toNat_shiftLeft, Nat.shiftLeft_eq]
  case isFalse h =>
    have hdvd : 2 ^ 32 ∣ a.toNat * 2 ^ b.toNat := (Nat.pow_dvd_pow 2 (by omega)).mul_left _
    exact (Nat.mod_eq_zero_of_dvd hdvd).symm

/-- A shift right by 32 or more leaves the sign in every bit: the floor of a small quotient (R187). -/
theorem toInt_ediv_of_le (a : Word) {p : Int} (hp : 2 ^ 32 ≤ p) : a.toInt / p = if a.msb then -1 else 0 := by
  have hlow := BitVec.le_toInt a
  have hhigh := BitVec.toInt_lt (x := a)
  split
  case isTrue h =>
    have hneg : a.toInt < 0 := BitVec.toInt_neg_of_msb_true h
    exact Int.ediv_eq_neg_one_of_neg_of_le hneg (by omega)
  case isFalse h =>
    have hpos : 0 ≤ a.toInt := BitVec.toInt_nonneg_of_msb_false (by simpa using h)
    exact Int.ediv_eq_zero_of_lt hpos (by omega)

theorem asrResult_eq (a b : Word) : asrResult a b = BitVec.ofInt 32 (a.toInt / 2 ^ b.toNat) := by
  unfold asrResult
  split
  case isTrue =>
    have hshift : a.toInt / 2 ^ b.toNat = (a.sshiftRight b.toNat).toInt := by
      rw [BitVec.toInt_sshiftRight, Int.shiftRight_eq_div_pow]
      norm_cast
    rw [hshift, BitVec.ofInt_toInt]
  case isFalse h =>
    have hp : (2 : Int) ^ 32 ≤ 2 ^ b.toNat := by gcongr <;> omega
    rw [toInt_ediv_of_le a hp]
    split <;> rfl

theorem extractLsb'_low_toInt (a : Word) : (a.extractLsb' 0 16).toInt = a.toInt.bmod (2 ^ 16) := by
  rw [BitVec.toInt_eq_toNat_bmod, BitVec.toInt_eq_toNat_bmod, Int.bmod_bmod_of_dvd (by decide), BitVec.extractLsb'_toNat,
    Nat.shiftRight_zero, Int.natCast_mod, Int.emod_bmod]

theorem mpyuResult_toNat (a b : Word) : (mpyuResult a b).toNat = a.toNat % 2 ^ 16 * (b.toNat % 2 ^ 16) := by
  have ha : a.toNat % 2 ^ 16 < 2 ^ 16 := Nat.mod_lt _ (by decide)
  have hb : b.toNat % 2 ^ 16 < 2 ^ 16 := Nat.mod_lt _ (by decide)
  have hprod : a.toNat % 2 ^ 16 * (b.toNat % 2 ^ 16) < 2 ^ 16 * 2 ^ 16 := Nat.mul_lt_mul'' ha hb
  rw [mpyuResult, BitVec.extractLsb'_toNat, BitVec.extractLsb'_toNat, BitVec.toNat_ofNat, Nat.shiftRight_zero,
    Nat.shiftRight_zero, Nat.mod_eq_of_lt (hprod.trans_eq (Nat.pow_add 2 16 16).symm)]

/-- The signed product of two 16-bit values fits 32 bits (R189). -/
theorem mpysResult_toInt (a b : Word) : (mpysResult a b).toInt = a.toInt.bmod (2 ^ 16) * b.toInt.bmod (2 ^ 16) := by
  rw [mpysResult, BitVec.toInt_ofInt, extractLsb'_low_toInt, extractLsb'_low_toInt]
  have hbound (x : Int) : -2 ^ 15 ≤ x.bmod (2 ^ 16) ∧ x.bmod (2 ^ 16) < 2 ^ 15 :=
    ⟨Int.le_bmod (by decide), Int.bmod_lt (by decide)⟩
  obtain ⟨ha, ha'⟩ := hbound a.toInt
  obtain ⟨hb, hb'⟩ := hbound b.toInt
  generalize a.toInt.bmod (2 ^ 16) = x at *
  generalize b.toInt.bmod (2 ^ 16) = y at *
  have hlow : -2 ^ 30 ≤ x * y := by nlinarith
  have hhigh : x * y ≤ 2 ^ 30 := by nlinarith
  exact Int.bmod_eq_of_le (by norm_num at *; omega) (by norm_num at *; omega)

theorem append_eq_ofNat (x y : BitVec 16) : (x ++ y : Word) = BitVec.ofNat 32 (x.toNat * 2 ^ 16 + y.toNat) := by
  apply BitVec.eq_of_toNat_eq
  have hx := x.isLt
  have hy := y.isLt
  rw [BitVec.toNat_append, ← Nat.shiftLeft_add_eq_or_of_lt hy, Nat.shiftLeft_eq, BitVec.toNat_ofNat,
    Nat.mod_eq_of_lt (by omega)]

theorem ldihiResult_eq (a b : Word) :
    ldihiResult a b = BitVec.ofNat 32 (b.toNat % 2 ^ 16 * 2 ^ 16 + a.toNat % 2 ^ 16) := by
  rw [ldihiResult, append_eq_ofNat, BitVec.extractLsb'_toNat, BitVec.extractLsb'_toNat, Nat.shiftRight_zero,
    Nat.shiftRight_zero]

theorem ldiloResult_eq (a b : Word) :
    ldiloResult a b = BitVec.ofNat 32 (a.toNat / 2 ^ 16 * 2 ^ 16 + b.toNat % 2 ^ 16) := by
  have ha := a.isLt
  rw [ldiloResult, append_eq_ofNat, BitVec.extractLsb'_toNat, BitVec.extractLsb'_toNat, Nat.shiftRight_zero,
    Nat.shiftRight_eq_div_pow, Nat.mod_eq_of_lt (a := a.toNat / 2 ^ 16) (by omega)]

theorem udiv_eq_ofNat (a b : Word) : a / b = BitVec.ofNat 32 (a.toNat / b.toNat) := by
  apply BitVec.eq_of_toNat_eq
  rw [BitVec.toNat_udiv, BitVec.toNat_ofNat, Nat.mod_eq_of_lt ((Nat.div_le_self _ _).trans_lt a.isLt)]

theorem sdiv_eq_ofInt (a b : Word) : a.sdiv b = BitVec.ofInt 32 (Int.tdiv a.toInt b.toInt) := by
  apply BitVec.eq_of_toInt_eq
  rw [BitVec.toInt_sdiv, BitVec.toInt_ofInt]

theorem signExtend_add_eq_ofInt {n : Nat} (a : Word) (imm : BitVec n) :
    a + imm.signExtend 32 = BitVec.ofInt 32 (a.toInt + imm.toInt) := by
  rw [BitVec.ofInt_add, BitVec.ofInt_toInt]
  rfl

/-! ### Divides -/

section
variable {q : Word → Word → Word} {dr : RegNum} {f : Form} {s : State} (hc : condHolds s.cur.flags (formCond f) = true)
include hc

theorem divideOp_nonzero (hb : s.operandB f ≠ 0#32) {w : Word} (hw : q (s.readReg dr) (s.operandB f) = w) :
    ∃ t, divideOp q dr f s = .next t ∧ ResultWritten s t dr (formCond f) w none none := by
  refine ⟨_, conditional_true _ _ _ hc, ?_⟩
  rw [if_neg hb, hw]
  exact s.resultWritten_writeResult (formCond f) dr w (openCV (s.readReg dr) (s.operandB f))

theorem divideOp_zero (hb : s.operandB f = 0#32) : divideOp q dr f s = .next (s.raise .divideByZero) := by
  rw [divideOp_next, if_pos hc, if_pos hb]

end

/-! ### Moves -/

theorem State.movValue_std_user {s : State} (hg : s.gie = true) (cnd : Cond) (a b : Bool) (br : RegNum) (imm : BitVec 13) :
    s.movValue (.std cnd a br b imm) = BitVec.ofInt 32 ((s.readReg br).toInt + imm.toInt) := by
  rw [State.movValue, State.crosses_user hg, ← signExtend_add_eq_ofInt]
  rfl

theorem State.crosses_supervisor {s : State} (hg : s.gie = false) (bit : Bool) : s.crosses bit = bit := by
  simp [State.crosses, hg]

theorem State.movValue_std_supervisor {s : State} (hg : s.gie = false) (cnd : Cond) (a b : Bool) (br : RegNum)
    (imm : BitVec 13) :
    s.movValue (.std cnd a br b imm) =
      BitVec.ofInt 32 ((if b then s.readUser br else s.readReg br).toInt + imm.toInt) := by
  rw [State.movValue, State.crosses_supervisor hg, ← signExtend_add_eq_ofInt]

theorem exec_mov_of_cond {dr : RegNum} {g : MovForm} {s : State} (hc : condHolds s.cur.flags (movCond g) = true) :
    exec (.mov dr g) s =
      .next (if s.movCrosses g then s.writeUser dr (s.movValue g) else s.writeReg dr (s.movValue g)) := by
  rw [exec_mov, if_pos hc]

end Sys2Proof.Machine

namespace Sys2Proof.Proofs

open Sys2Proof.Machine Sys2Proof.Claims

/-- Settles O14, from the signed values of the immediates. -/
theorem operandBOfEveryForm : Obligations.OperandBOfEveryForm := by
  intro s cnd v br
  refine ⟨fun imm => ?_, fun imm => ?_, fun imm => ?_, fun imm => ?_, rfl, rfl⟩
  · exact BitVec.toInt_signExtend_of_le (by omega)
  · rw [State.operandB, BitVec.toInt_add, BitVec.toInt_signExtend_of_le (by omega)]
  · exact BitVec.toInt_signExtend_of_le (by omega)
  · exact BitVec.toInt_signExtend_of_le (by omega)

/-- Settles O15: every conditional instruction is `conditional` of its condition. -/
theorem falseConditionHasNoEffect : Obligations.FalseConditionHasNoEffect := by
  intro i cnd s hi hc
  cases i
  case fpadd | fpsub | fpmpy | fpdiv | fpcvt | fpint | noop | brk | lock | illegal1B | illegal1C | illegal1D | reserved1E
    | reserved1F | undefinedMovImm => cases hi
  all_goals
    obtain rfl := Option.some.inj hi
    exact conditional_false _ s _ hc

/-- Settles O18, from what an ALU instruction writes and the results as divisions and products. -/
theorem shiftsByTheWholeOperand : Obligations.ShiftsByTheWholeOperand := by
  intro dr f s hc
  refine ⟨?_, ?_, ?_⟩
  · exact aluOp_resultWritten hc (lsrResult_eq _ _) rfl
  · exact aluOp_resultWritten hc (lslResult_eq _ _) rfl
  · exact aluOp_resultWritten hc (asrResult_eq _ _) rfl

/-- Settles O19, from what an ALU instruction with open C and V writes and the exact products. -/
theorem multipliesOfTheLowHalves : Obligations.MultipliesOfTheLowHalves := by
  intro dr f s hc
  refine ⟨?_, ?_⟩
  · exact aluOp_open_resultWritten hc (mpyuResult_toNat _ _)
  · exact aluOp_open_resultWritten hc (mpysResult_toInt _ _)

/-- Settles O22, from the two halves of each result. -/
theorem loadHalves : Obligations.LoadHalves := by
  intro dr f s hc
  dsimp only
  rw [← ldihiResult_eq, ← ldiloResult_eq]
  exact ⟨conditional_true _ s _ hc, conditional_true _ s _ hc⟩

/-- Settles O23: LDI is `conditional` of VCND's condition, or of none. -/
theorem loadImmediate : Obligations.LoadImmediate := by
  intro dr s
  exact ⟨fun imm => exec_ldi_std dr imm s, fun _ _ _ hc => conditional_true _ s _ hc,
    fun _ _ _ hc => conditional_true _ s _ hc⟩

/-- Settles O24: in user mode no bit crosses, in supervisor mode the bits are what crosses. -/
theorem moveBetweenRegisters : Obligations.MoveBetweenRegisters := by
  intro dr br s
  refine ⟨fun cnd a b imm hc => ⟨fun hg => ?_, fun hg => ?_⟩, fun v hc => exec_mov_of_cond (g := .c1 v br) hc,
    fun v hc => exec_mov_of_cond (g := .c2 v br) hc⟩
  · rw [exec_mov_of_cond (g := .std cnd a br b imm) hc, State.movCrosses_user hg, State.movValue_std_user hg]
    rfl
  · rw [exec_mov_of_cond (g := .std cnd a br b imm) hc, State.movCrosses, State.crosses_supervisor hg,
      State.movValue_std_supervisor hg]

/-- Settles O28, from what a divide does for each divisor. -/
theorem unsignedDivide : Obligations.UnsignedDivide := by
  intro dr f s hc
  exact ⟨fun hb => divideOp_nonzero hc hb (udiv_eq_ofNat _ _), fun hb => divideOp_zero hc hb⟩

/-- Settles O29, from what a divide by another value than 0 writes. -/
theorem signedDivide : Obligations.SignedDivide := by
  intro dr f s hc hb
  exact divideOp_nonzero hc hb (sdiv_eq_ofInt _ _)

end Sys2Proof.Proofs
end

section
/-! PC and CC as operands (R26 to R28, R38 to R42), and the traps, breaks and exceptions (R281, R351 to R365). -/

namespace Sys2Proof.Machine

open Sys2Proof.Claims

/-! ### The CC word -/

theorem toNat_append_add {m n : Nat} (x : BitVec m) (y : BitVec n) : (x ++ y).toNat = x.toNat * 2 ^ n + y.toNat := by
  rw [BitVec.toNat_append, ← Nat.shiftLeft_add_eq_or_of_lt y.isLt, Nat.shiftLeft_eq]

/-- The CC of a set as a sum of its bits at their places (R29, R39). -/
theorem State.ccOf_toNat (s : State) (rs : RegSet) (user : Bool) :
    (s.ccOf rs user).toNat =
      rs.flags.z.toNat + 2 * rs.flags.c.toNat + 4 * rs.flags.n.toNat + 8 * rs.flags.v.toNat +
      16 * s.sleep.toNat + 32 * user.toNat + 64 * s.stepBit.toNat + 128 * s.breakEn.toNat + 256 * rs.ill.toNat +
      512 * s.trap.toNat + 1024 * rs.buserr.toNat + 2048 * rs.dive.toNat + 4096 * rs.fpe.toNat +
      8192 * rs.hi.toNat := by
  simp only [State.ccOf, Flags.bits, toNat_append_add, BitVec.toNat_ofBool]
  omega

theorem extractLsb'_softwareBits (v : Word) : v.extractLsb' 13 19 = BitVec.ofNat 19 (v.toNat / 2 ^ 13) := by
  apply BitVec.eq_of_toNat_eq
  rw [BitVec.extractLsb'_toNat, Nat.shiftRight_eq_div_pow, BitVec.toNat_ofNat]

theorem RegSet.putCCBits_eq (rs : RegSet) (v : Word) :
    rs.putCCBits v = { rs with
      flags := { z := v[0], c := v[1], n := v[2], v := v[3] }, hi := BitVec.ofNat 19 (v.toNat / 2 ^ 13) } := by
  rw [← extractLsb'_softwareBits]
  rfl

theorem softwareBits_toNat (v : Word) : (v.extractLsb' 13 19).toNat = v.toNat / 2 ^ 13 := by
  rw [BitVec.extractLsb'_toNat, Nat.shiftRight_eq_div_pow, Nat.mod_eq_of_lt (by omega)]

theorem State.readUser_cc (s : State) : s.readUser ccReg = s.ccOf s.usr true := rfl
theorem State.writeUser_cc (s : State) (v : Word) : s.writeUser ccReg v = { s with usr := s.usr.putCCBits v } := rfl

/-- A jump changes the stored PC of the current set and marks a control event, and nothing else (R27). -/
theorem State.jump_restore (s : State) (v : Word) :
    { (s.jump v).setCur { (s.jump v).cur with pc := s.cur.pc } with control := s.control } = s := by
  rcases s with ⟨sup, usr, gie⟩
  cases gie <;> rfl

theorem State.writeCC_user_kept {s : State} {v : Word} (hg : s.gie = true) (h : v[5] = true) :
    s.writeCC v = { s with usr := s.usr.putCCBits v, sleep := v[4], control := s.control || v[4] } := by
  rw [State.writeCC_user s v hg]
  rcases s.writeCCUser_cases v with ⟨-, e⟩ | ⟨h', -⟩
  · exact e
  · simp [h] at h'

/-! ### Entering supervisor mode and halting -/

section
variable {s : State}

theorem State.enteredSupervisor (s : State) (v : Word) : EnteredSupervisor s (s.enterSupervisor v) :=
  ⟨rfl, rfl, rfl, rfl, rfl, rfl, rfl, rfl, rfl⟩

/-- An exception in user mode sets its bit and enters supervisor mode (R361). -/
theorem State.raise_entered (hg : s.gie = true) (e : Exc) :
    EnteredSupervisor s (s.raise e) ∧ (s.raise e).trap = s.trap ∧
      (s.raise e).usr = { s.usr.setExc e with pc := s.excPc e } := by
  rw [State.raise_user s e hg]
  exact ⟨⟨rfl, rfl, rfl, rfl, rfl, s.usr.setExc_gen e, rfl, rfl, rfl⟩, rfl, rfl⟩

/-- An exception in supervisor mode sets its bit and halts (R365). -/
theorem State.raise_halted (hg : s.gie = false) (e : Exc) :
    (s.raise e).halted = some (.exception e) ∧ (s.raise e).gie = false ∧ (s.raise e).usr = s.usr ∧
      (s.raise e).mem = s.mem ∧ (s.raise e).sup = { s.sup.setExc e with pc := s.excPc e } := by
  rw [State.raise_sup s e hg]
  exact ⟨rfl, hg, rfl, rfl, rfl⟩

theorem State.beginWord_user (hg : s.gie = true) :
    s.beginWord = { s with usr := { s.usr with pc := s.usr.pc + 1#32 }, wordAddr := s.usr.pc, control := false } := by
  simp [State.beginWord, State.setPc, State.setCur, State.cur, hg]

theorem State.beginWord_supervisor (hg : s.gie = false) :
    s.beginWord = { s with sup := { s.sup with pc := s.sup.pc + 1#32 }, wordAddr := s.sup.pc, control := false } := by
  simp [State.beginWord, State.setPc, State.setCur, State.cur, hg]

/-- A refused fetch in user mode: the PC is back at the word (R352). -/
theorem State.fetchFault_entered (hg : s.gie = true) :
    EnteredSupervisor s s.fetchFault ∧ s.fetchFault.usr = { s.usr with ill := true } := by
  have hraise := State.raise_user { s.beginWord with lockCount := 0 } .illegalInstruction ((s.beginWord_gie).trans hg)
  rw [State.beginWord_user hg] at hraise
  rw [State.fetchFault, State.beginWord_user hg]
  exact hraise ▸ ⟨⟨rfl, rfl, rfl, rfl, rfl, rfl, rfl, rfl, rfl⟩, rfl⟩

theorem State.fetchFault_halted (hg : s.gie = false) :
    s.fetchFault.halted = some (.exception .illegalInstruction) ∧ s.fetchFault.usr = s.usr ∧ s.fetchFault.mem = s.mem ∧
      s.fetchFault.sup = { s.sup with ill := true } := by
  have hraise := State.raise_sup { s.beginWord with lockCount := 0 } .illegalInstruction ((s.beginWord_gie).trans hg)
  rw [State.beginWord_supervisor hg] at hraise
  rw [State.fetchFault, State.beginWord_supervisor hg]
  exact hraise ▸ ⟨rfl, rfl, rfl, rfl⟩

theorem State.fetchWord_refused {a : Word} (h : s.reply .fetch a = .refused) : s.fetchWord a = .busError s := by
  simp [State.fetchWord, h]

/-! ### Illegal encodings -/

/-- Every illegal encoding takes the exception, whatever its condition (R113, R276, R283, R284). -/
theorem exec_of_illegal {i : Instr} (h : i.illegal = true) (s : State) :
    exec i s = .next (s.raise .illegalInstruction) := by
  cases i
  case fpadd | fpsub | fpmpy | fpdiv | fpcvt | fpint | illegal1B | illegal1C | illegal1D | reserved1E | reserved1F => rfl
  all_goals cases h

theorem execWord_of_illegal {d : CodeWord} (h : d.illegal = true) (ws : List (Word × Word)) (s : State) :
    execWord ws d s = .next ((s.raise .illegalInstruction).queueWrites ws) := by
  cases d with
  | single i => rw [execWord, exec_of_illegal h]; rfl
  | pair i j => rw [execWord, if_pos h]

end

end Sys2Proof.Machine

namespace Sys2Proof.Proofs

open Sys2Proof.Machine Sys2Proof.Claims

/-- Settles O9, from a jump's frame and the CC word as a sum of its bits. -/
theorem programCountersAndUserCcAsOperands : Obligations.ProgramCountersAndUserCcAsOperands := by
  intro s v
  rw [State.readReg_pc, State.writeReg_pc, State.readUser_cc, State.ccOf_toNat, State.writeUser_cc, RegSet.putCCBits_eq]
  refine ⟨rfl, by simp, by simp, fun hg => ?_, fun hg => ?_, s.jump_restore v, rfl, rfl, rfl, rfl⟩
  · exact State.setCur_sup_proj id (.inl hg)
  · exact State.setCur_usr_proj id (.inl hg)

/-- Settles O11, from the cases of a write of the own CC in each mode. -/
theorem writesOfTheOwnCc : Obligations.WritesOfTheOwnCc := by
  refine ⟨fun s v hg h5 => ?_, fun s v hg => ?_⟩
  · rw [State.writeReg_cc, State.writeCC_user_kept hg h5, RegSet.putCCBits_eq]
    exact ⟨rfl, rfl, hg, rfl, rfl, rfl, rfl, rfl, rfl, rfl⟩
  · rw [State.writeReg_cc, State.writeCC_sup s v hg]
    have hhi := softwareBits_toNat v
    rcases s.writeCCSupervisor_cases v with ⟨h5, e⟩ | ⟨h5, h4, e⟩ | ⟨h5, h4, e⟩ <;> rw [e, h5]
    · exact ⟨rfl, hhi, rfl, rfl, rfl, rfl, rfl, rfl, rfl, rfl, rfl, rfl, rfl, fun _ => ⟨rfl, rfl, rfl, rfl⟩, nofun⟩
    · exact ⟨rfl, hhi, rfl, hg, rfl, rfl, rfl, rfl, rfl, rfl, rfl, rfl, rfl, nofun, fun _ => ⟨rfl, rfl, rfl, by rw [h4]; rfl⟩⟩
    · exact ⟨rfl, hhi, rfl, hg, rfl, rfl, rfl, rfl, rfl, rfl, rfl, rfl, rfl, nofun, fun _ => ⟨rfl, rfl, rfl, by rw [h4]; rfl⟩⟩

/-- Settles O12: such a write is the entry to supervisor mode with TRAP set. -/
theorem userWriteOfCcClearingGieTraps : Obligations.UserWriteOfCcClearingGieTraps := by
  intro s v hg h5
  rw [State.writeReg_cc, State.writeCC_trapped hg h5, RegSet.putCCBits_eq]
  exact ⟨⟨rfl, rfl, rfl, rfl, rfl, rfl, rfl, rfl, rfl⟩, rfl, rfl⟩

/-- Settles O30: a divide by 0 is the exception, in each mode. -/
theorem divideByZeroIsTaken : Obligations.DivideByZeroIsTaken := by
  intro i dr f s hi hc hb
  refine ⟨s.raise .divideByZero, ?_, fun hg => ?_, fun hg => ?_⟩
  · rcases hi with rfl | rfl
    · exact divideOp_zero hc hb
    · exact divideOp_zero hc hb
  · obtain ⟨hentered, htrap, husr⟩ := State.raise_entered hg .divideByZero
    exact ⟨hentered, htrap, by rw [husr]; rfl⟩
  · obtain ⟨hhalted, hgie, husr, hmem, hsup⟩ := State.raise_halted hg .divideByZero
    exact ⟨hhalted, husr, hgie, hmem, by rw [hsup]; rfl⟩

/-- Settles O32, from the two cases of BREAK. -/
theorem breakStopsAtItself : Obligations.BreakStopsAtItself := by
  intro l x s
  refine ⟨s.breakTrap, exec_brk_std l x s, fun h => ?_, fun hb hg => ?_⟩
  · rcases s.breakTrap_cases with ⟨-, e⟩ | ⟨hb, hg, -⟩
    · rw [e]
      exact ⟨rfl, by simp, by simp, by simp, fun hg => State.setCur_sup_proj id (.inl hg),
        fun hg => State.setCur_usr_proj id (.inl hg)⟩
    · simp [hb, hg] at h
  · rcases s.breakTrap_cases with ⟨h, -⟩ | ⟨-, -, e⟩
    · simp [hb, hg] at h
    · rw [e]
      exact ⟨s.enteredSupervisor _, rfl, rfl⟩

/-- Settles O33: each is an illegal encoding, which is the exception, in each mode. -/
theorem illegalEncodingsAreTaken : Obligations.IllegalEncodingsAreTaken := by
  intro i s hi
  have hill : i.illegal = true := by
    rcases hi with ⟨dr, f, rfl | rfl | rfl | rfl | rfl | rfl⟩ | ⟨f, rfl | rfl | rfl⟩ | ⟨dr, f, rfl | rfl⟩ <;> rfl
  refine ⟨s.raise .illegalInstruction, exec_of_illegal hill s, fun hg => ?_, fun hg => ?_⟩
  · exact State.raise_entered hg .illegalInstruction
  · exact State.raise_halted hg .illegalInstruction

/-- Settles O43: an illegal word and a refused fetch are the exception at the word's address, in each mode. -/
theorem illegalInstructionIsTaken : Obligations.IllegalInstructionIsTaken := by
  refine ⟨fun ws d s hd => ?_, fun s x hr hf => ?_, fun s => rfl, fun s => rfl, fun s v h8 => h8⟩
  · refine ⟨_, execWord_of_illegal hd ws s, fun hg => ?_, fun hg => ?_⟩
    · obtain ⟨hentered, -, husr⟩ := State.raise_entered hg .illegalInstruction
      exact ⟨hentered, husr⟩
    · obtain ⟨hhalted, -, husr, hmem, hsup⟩ := State.raise_halted hg .illegalInstruction
      exact ⟨hhalted, husr, hmem, hsup⟩
  · exact ⟨_, State.stepWith_fetchFault hr (State.fetchWord_refused hf), State.fetchFault_entered, State.fetchFault_halted⟩

end Sys2Proof.Proofs
end

section
/-! Loads and stores (R240 to R244): what each answers, by how the platform replies to its access. -/

namespace Sys2Proof.Machine

open Sys2Proof.Claims

section
variable {dr : RegNum} {f : Form} {s : State} (hc : condHolds s.cur.flags (formCond f) = true)
include hc

theorem exec_lod_word {w : Word} {t : State} (ha : s.answers .load (s.operandB f) = true)
    (hm : s.memRead (s.operandB f) = .word w t) : exec (.lod dr f) s = .next (t.writeReg dr w) := by
  rw [exec, execLod, conditional_true _ _ _ hc, State.dataAccess_answered _ _ _ _ _ ha, hm]

theorem exec_lod_busError {t : State} (ha : s.answers .load (s.operandB f) = true)
    (hm : s.memRead (s.operandB f) = .busError t) : exec (.lod dr f) s = .next t.raiseBusError := by
  rw [exec, execLod, conditional_true _ _ _ hc, State.dataAccess_answered _ _ _ _ _ ha, hm]

theorem exec_sto_done {t : State} (ha : s.answers .store (s.operandB f) = true)
    (hm : s.memWrite (s.operandB f) (s.readReg dr) = .done t) : exec (.sto dr f) s = .next t := by
  rw [exec, execSto, conditional_true _ _ _ hc, State.dataAccess_answered _ _ _ _ _ ha, hm]

theorem exec_sto_busError {t : State} (ha : s.answers .store (s.operandB f) = true)
    (hm : s.memWrite (s.operandB f) (s.readReg dr) = .busError t) : exec (.sto dr f) s = .next t.raiseBusError := by
  rw [exec, execSto, conditional_true _ _ _ hc, State.dataAccess_answered _ _ _ _ _ ha, hm]

theorem exec_lod_silent (ha : s.answers .load (s.operandB f) = false) :
    exec (.lod dr f) s = .next (s.present (s.loadEvent (s.operandB f))).deadlockBus := by
  rw [exec, execLod, conditional_true _ _ _ hc, State.dataAccess_silent _ _ _ _ _ ha]

theorem exec_sto_silent (ha : s.answers .store (s.operandB f) = false) :
    exec (.sto dr f) s = .next (s.present (s.storeEvent (s.operandB f) (s.readReg dr))).deadlockBus := by
  rw [exec, execSto, conditional_true _ _ _ hc, State.dataAccess_silent _ _ _ _ _ ha]

theorem exec_lod_memory (ha : s.answers .load (s.operandB f) = true) (hr : s.reply .load (s.operandB f) = .memory) :
    exec (.lod dr f) s =
      .next ((s.present (s.loadEvent (s.operandB f))).writeReg dr (s.peek (s.operandB f))) :=
  exec_lod_word hc ha (by rw [State.memRead, hr])

theorem exec_lod_peripheral (ha : s.answers .load (s.operandB f) = true)
    (hr : s.reply .load (s.operandB f) = .peripheral) :
    exec (.lod dr f) s =
      .next (((s.present (s.loadEvent (s.operandB f))).countDraws 1).writeReg dr s.drawWord) :=
  exec_lod_word hc ha (by rw [State.memRead, hr])

theorem exec_lod_refused (ha : s.answers .load (s.operandB f) = true) (hr : s.reply .load (s.operandB f) = .refused) :
    exec (.lod dr f) s = .next (s.present (s.loadEvent (s.operandB f))).raiseBusError :=
  exec_lod_busError hc ha (by rw [State.memRead, hr])

theorem exec_sto_memory (ha : s.answers .store (s.operandB f) = true) (hr : s.reply .store (s.operandB f) = .memory) :
    exec (.sto dr f) s =
      .next ((s.present (s.storeEvent (s.operandB f) (s.readReg dr))).poke (s.operandB f) (s.readReg dr)) :=
  exec_sto_done hc ha (by rw [State.memWrite, hr])

theorem exec_sto_peripheral (ha : s.answers .store (s.operandB f) = true)
    (hr : s.reply .store (s.operandB f) = .peripheral) :
    exec (.sto dr f) s = .next (s.present (s.storeEvent (s.operandB f) (s.readReg dr))) :=
  exec_sto_done hc ha (by rw [State.memWrite, hr])

theorem exec_sto_refused (ha : s.answers .store (s.operandB f) = true) (hr : s.reply .store (s.operandB f) = .refused) :
    exec (.sto dr f) s = .next (s.present (s.storeEvent (s.operandB f) (s.readReg dr))).raiseBusError :=
  exec_sto_busError hc ha (by rw [State.memWrite, hr])

end

/-! ### A bus error of a data access -/

section
variable (s : State) (e : BusEvent)

theorem State.raiseBusError_lockCount : s.raiseBusError.lockCount = 0 :=
  Nat.le_zero.1 (State.raise_lockCount_le (s := { s with lockCount := 0 }) .busError)

theorem State.presented_raiseBusError_entered (hg : s.gie = true) :
    EnteredSupervisor s (s.present e).raiseBusError ∧ (s.present e).raiseBusError.trap = s.trap ∧
      (s.present e).raiseBusError.usr = { s.usr with buserr := true, pc := (s.present e).raiseBusError.usr.pc } := by
  obtain ⟨hentered, htrap, husr⟩ :=
    State.raise_entered (s := ({ s.present e with lockCount := 0 } : State)) hg .busError
  exact ⟨hentered, htrap, by rw [State.raiseBusError, husr]; rfl⟩

theorem State.presented_raiseBusError_halted (hg : s.gie = false) :
    (s.present e).raiseBusError.halted = some (.exception .busError) ∧ (s.present e).raiseBusError.gie = false ∧
      (s.present e).raiseBusError.usr = s.usr ∧ (s.present e).raiseBusError.mem = s.mem ∧
      (s.present e).raiseBusError.sup = { s.sup with buserr := true, pc := (s.present e).raiseBusError.sup.pc } := by
  obtain ⟨hhalted, hgie, husr, hmem, hsup⟩ :=
    State.raise_halted (s := ({ s.present e with lockCount := 0 } : State)) hg .busError
  exact ⟨hhalted, hgie, husr, hmem, by rw [State.raiseBusError, hsup]; rfl⟩

end

end Sys2Proof.Machine

namespace Sys2Proof.Proofs

open Sys2Proof.Machine Sys2Proof.Claims

/-- Settles O25, from the answers of plain memory and of a peripheral to a load. -/
theorem loadReadsOneWord : Obligations.LoadReadsOneWord :=
  fun _ _ _ hc ha => ⟨exec_lod_memory hc ha, fun hr => ⟨_, exec_lod_peripheral hc ha hr⟩⟩

/-- Settles O26: plain memory takes the word, and a peripheral's answer leaves memory alone. -/
theorem storeWritesOneWord : Obligations.StoreWritesOneWord := by
  intro dr f s hm hc ha hr
  rcases hr with hr | hr
  · refine ⟨_, exec_sto_memory hc ha hr, ?_, by simp [hr], rfl, State.poke_mem_wf _ hm _ _, rfl⟩
    rintro a rfl -
    have hpeek := State.peek_poke (s.present (s.storeEvent (s.operandB f) (s.readReg dr))) hm (s.operandB f)
    exact ⟨by simp [hpeek], fun b hb => by rw [hpeek, if_neg hb.symm]; rfl⟩
  · refine ⟨_, exec_sto_peripheral hc ha hr, ?_, fun _ _ => rfl, rfl, hm, rfl⟩
    rintro a rfl hr'
    simp [hr] at hr'

/-- Settles O27: the store leaves the address and the platform as they were, and its word is the one then read. -/
theorem loadReadsBackOwnStore : Obligations.LoadReadsBackOwnStore := by
  intro rx ry rb s t hm hry hst hld hast hald h
  have hb : s.operandB (.stdReg .always rb 0#14) = s.readReg rb := by simp [State.operandB]
  rw [← hb] at hst hld hast hald
  have hstore := exec_sto_memory (dr := rx) rfl hast hst
  cases hstore.symm.trans h
  refine ⟨_, exec_lod_memory rfl hald hld, ?_⟩
  rw [State.readReg_writeReg_gen _ ry ry _ hry hry, if_pos rfl]
  exact (State.peek_poke _ hm _ _ _).trans (if_pos rfl)

/-- Settles O44: a refused data access is the exception, in each mode. -/
theorem busErrorIsTaken : Obligations.BusErrorIsTaken := by
  refine ⟨fun i dr f s h hc => ?_, fun s => rfl, fun s => rfl, fun s v h10 => h10⟩
  have hexec : ∃ e : BusEvent, exec i s = .next (s.present e).raiseBusError := by
    rcases h with ⟨rfl, ha, hr⟩ | ⟨rfl, ha, hr⟩
    · exact ⟨_, exec_lod_refused hc ha hr⟩
    · exact ⟨_, exec_sto_refused hc ha hr⟩
  obtain ⟨e, he⟩ := hexec
  exact ⟨_, he, State.raiseBusError_lockCount _, s.presented_raiseBusError_entered e, s.presented_raiseBusError_halted e⟩

end Sys2Proof.Proofs
end

section
/-! Steps that run a word, and steps at which nothing runs (R150, R157, R280, R358 to R360). -/

namespace Sys2Proof.Machine

open Sys2Proof.Claims

/-! ### Words by a mask -/

/-- Bits that a mask keeps are those of the masked word. -/
theorem bitsOf_of_and_eq {w m p : Word} {lo n : Nat} (h : w &&& m = p) (hm : m.extractLsb' lo n = BitVec.allOnes n) :
    bitsOf w lo n = bitsOf p lo n := by
  rw [← extractLsb'_toNat_eq_bitsOf, ← extractLsb'_toNat_eq_bitsOf, ← h, BitVec.extractLsb'_and, hm, BitVec.and_allOnes]

/-! ### Undefined encodings -/

theorem undefinedEncoding_of_refusalOf {i : Instr} {r : Refusal} (h : refusalOf i = some r) :
    i.undefinedEncoding = true := by
  rw [undefinedEncoding_eq, h]; rfl

/-- A compact word with an undefined half, and no illegal one, is refused by the name of its first such half (R115). -/
theorem execWord_of_refusalOf {i j : Instr} {r : Refusal} (hd : (CodeWord.pair i j).illegal = false)
    (h : refusalOf i = some r ∨ (refusalOf i = none ∧ refusalOf j = some r)) (ws : List (Word × Word)) (s : State) :
    execWord ws (.pair i j) s = .refused r := by
  rw [execWord, if_neg (by simp [hd])]
  rcases h with hi | ⟨hi, hj⟩
  · rw [if_pos (undefinedEncoding_of_refusalOf hi), exec_of_refusalOf hi]
  · rw [if_neg (by simp [undefinedEncoding_eq, hi]), if_pos (undefinedEncoding_of_refusalOf hj), exec_of_refusalOf hj]

theorem execWord_of_defined {i j : Instr} (hd : (CodeWord.pair i j).illegal = false) (hi : i.undefinedEncoding = false)
    (hj : j.undefinedEncoding = false) (ws : List (Word × Word)) (s : State) :
    execWord ws (.pair i j) s = execHalves ws i j s := by
  rw [execWord, if_neg (by simp [hd]), if_neg (by simp [hi]), if_neg (by simp [hj])]

/-! ### A step that runs a word -/

section
variable {s u : State} {w : Word}

/-- With nothing from the host, a step fetches the word at the PC and runs it, if the LOCK span allows it. -/
theorem step_of_fetched (hh : s.input.host = none) (hr : Running (arrived s) s.input)
    (hf : (arrived s).fetchWord (arrived s).cur.pc = .word w u)
    (hl : u.lockCount = 0 ∨ (decodeWord w).lockable = true) :
    step s = Outcome.andThen
      (execWord s.input.between (decodeWord w) (u.admitWrites s.input.afterFetch).beginWord)
      (fun t => .next (t.endWord u.gie (decodeWord w).isLock)) := by
  rw [step_of_no_host hh, State.stepWith_word hr hf, State.runFetched_allowed hl]

end

@[simp] theorem State.admitWrites_cur (s : State) (ws : List (Word × Word)) : (s.admitWrites ws).cur = s.cur := by
  simp [State.cur]

theorem State.stepReturn_entered (s : State) : EnteredSupervisor s s.stepReturn ∧ s.stepReturn.usr = s.usr :=
  ⟨s.enteredSupervisor _, rfl⟩

/-! ### The interrupt line -/

/-- In supervisor mode and inside a LOCK span the interrupt line has no effect (R359, D26). -/
theorem State.stepWith_irq (s : State) (x : Input) (h : s.gie = false ∨ s.lockCount ≠ 0) :
    s.stepWith x = s.stepWith { x with irq := false } := by
  have hno (irq : Bool) : (s.gie && irq && s.lockCount == 0) = false := by
    rcases h with h | h <;> simp [h]
  rw [State.stepWith, State.stepWith, hno, hno]
  rfl

theorem step_of_halted {s : State} (hh : s.halted ≠ none) (hx : s.input.host = none) : step s = .next (idled s) := by
  rw [step_of_no_host hx, State.stepWith_stopped (.inl (by simpa [arrived] using hh)), idled]

end Sys2Proof.Machine

namespace Sys2Proof.Proofs

open Sys2Proof.Machine Sys2Proof.Claims

/-- Settles O31: the pattern fixes the bits that make a word a NOOP. -/
theorem noopDoesNothing : Obligations.NoopDoesNothing := by
  refine ⟨fun _ _ => rfl, fun w h => ?_, fun s => by rw [State.beginWord_cur]⟩
  have hstd : bitsOf w 31 1 = 0 := bitsOf_of_and_eq h (by decide)
  have hspecial : bitsOf w 28 3 = 7 := bitsOf_of_and_eq h (by decide)
  have hop : bitsOf w 22 5 = 0x18 := bitsOf_of_and_eq h (by decide)
  exact ((moveLoadImmediateAndSpecialWords w hstd).2.2 hspecial).1 hop

/-- Settles O34: such a half has no meaning, and the step looks for one before it runs the first half. -/
theorem undefinedEncodingsAreRefused : Obligations.UndefinedEncodingsAreRefused := by
  refine ⟨fun _ _ _ => rfl, fun _ _ _ _ => ⟨rfl, rfl⟩, fun _ _ _ _ => ⟨rfl, rfl⟩, ?_⟩
  intro s u w i j r hh hr hf hw hd hl hij
  rw [step_of_fetched hh hr hf (.inl hl), hw, execWord_of_refusalOf hd hij]
  rfl

/-- Settles O47, from the running of a fetched word. -/
theorem stepRunsTheDecodedInstruction : Obligations.StepRunsTheDecodedInstruction := by
  intro s u w i hh hr hf hw hl
  refine ⟨?_, by simp, by rw [State.beginWord_cur, State.admitWrites_cur], State.beginWord_control _⟩
  rw [step_of_fetched hh hr hf (by rwa [hw]), hw, execWord, Outcome.andThen_assoc]
  rfl

/-- Settles O48, from the running of a fetched word: neither half stops it as a whole. -/
theorem stepRunsBothHalvesInOrder : Obligations.StepRunsBothHalvesInOrder := by
  intro s u w i j hh hr hf hw hd hi hj hl
  rw [step_of_fetched hh hr hf (.inl hl), hw, execWord_of_defined hd hi hj, execHalves, Outcome.andThen_assoc]
  rfl

/-- Settles O49, from the three cases of the end of a word. -/
theorem endOfWordCountsAndStepReturns : Obligations.EndOfWordCountsAndStepReturns := by
  refine ⟨fun s wasUser isLock hd => ?_, fun s wasUser isLock hd => ⟨fun hback => ?_, fun hback => ?_⟩⟩
  · rw [State.endWord, if_pos hd]
  · rcases s.endWord_cases wasUser isLock with ⟨hd', -⟩ | ⟨-, -, e⟩ | ⟨-, hno, -⟩
    · simp [hd] at hd'
    · rw [e]
      exact (s.counted isLock).stepReturn_entered
    · simp_all
  · rcases s.endWord_cases wasUser isLock with ⟨hd', -⟩ | ⟨-, hyes, -⟩ | ⟨-, -, e⟩
    · simp [hd] at hd'
    · simp [hyes] at hback
    · exact e

/-- Settles O51: the interrupt comes first in the step's order, and only then is the line looked at. -/
theorem interruptIsTakenBetweenWords : Obligations.InterruptIsTakenBetweenWords := by
  refine ⟨fun s x hh hd hg hl hi => ⟨_, State.stepWith_interrupt hh hd hg hi hl, ?_, rfl, rfl⟩, State.stepWith_irq⟩
  exact s.enteredSupervisor s.usr.pc

/-- Settles O52, from the step's answer while asleep and while halted. -/
theorem sleepAndHaltExecuteNothing : Obligations.SleepAndHaltExecuteNothing :=
  ⟨fun _ _ _ hs hi => State.stepWith_asleep (by simp [hi]) hs, fun _ _ hh => State.stepWith_stopped (.inl hh),
    fun _ => step_of_halted⟩

end Sys2Proof.Proofs
end

section
/-! What comes from outside the core: other masters' writes and the LOCK span (R376, R282), words a fetch may still
return (R83), the deadlocked bus (R85), and the debugger (R371, R372). -/

namespace Sys2Proof.Machine

open Sys2Proof.Claims

/-! ### Other masters' writes -/

theorem lastWrite_nil (a : Word) : lastWrite [] a = none := rfl

theorem lastWrite_cons (w : Word × Word) (ws : List (Word × Word)) (a : Word) :
    lastWrite (w :: ws) a = (lastWrite ws a).or (if w.1 = a then some w.2 else none) := by
  simp only [lastWrite, List.reverse_cons, List.find?_append, Option.map_or, List.find?_singleton, beq_iff_eq]
  split <;> rfl

section
variable {s : State}

theorem State.outsideWrite_memory {a : Word} (hr : s.reply .store a = .memory) (v : Word) :
    s.outsideWrite a v = s.poke a v := if_pos hr

/-- Writes to plain memory, oldest first: each address holds the last one's value (R376). -/
theorem State.peek_outsideWrites {ws : List (Word × Word)} (hm : s.mem.wf)
    (hr : ∀ w ∈ ws, s.reply .store w.1 = .memory) (a : Word) :
    (ws.foldl (fun t w => t.outsideWrite w.1 w.2) s).peek a = (lastWrite ws a).getD (s.peek a) := by
  induction ws generalizing s with
  | nil => rfl
  | cons w ws ih =>
    obtain ⟨hw, hws⟩ := List.forall_mem_cons.1 hr
    rw [List.foldl_cons, State.outsideWrite_memory hw, ih (s.poke_mem_wf hm _ _) hws, s.peek_poke hm, lastWrite_cons]
    cases lastWrite ws a with
    | some v => rfl
    | none => split <;> rfl

theorem State.admitWrites_locked (hl : s.lockCount ≠ 0) (ws : List (Word × Word)) : s.admitWrites ws = s.queueWrites ws :=
  if_neg hl

theorem State.admitWrites_unlocked_heldWrites (hl : s.lockCount = 0) (ws : List (Word × Word)) :
    (s.admitWrites ws).heldWrites = [] := by
  rcases s.admitWrites_cases ws with ⟨-, m, st, e, -⟩ | ⟨hl', -⟩
  · rw [e]
  · exact absurd hl hl'

theorem State.peek_admitWrites {ws : List (Word × Word)} (hm : s.mem.wf) (hl : s.lockCount = 0)
    (hr : ∀ w ∈ s.heldWrites ++ ws, s.reply .store w.1 = .memory) (a : Word) :
    (s.admitWrites ws).peek a = (lastWrite (s.heldWrites ++ ws) a).getD (s.peek a) := by
  rw [State.admitWrites, if_pos hl]
  exact State.peek_outsideWrites (s := { s with heldWrites := [] }) hm hr a

theorem State.peek_admitWrites_one {a : Word} (hm : s.mem.wf) (hl : s.lockCount = 0) (hq : s.heldWrites = [])
    (hr : s.reply .store a = .memory) (v b : Word) :
    (s.admitWrites [(a, v)]).peek b = if a = b then v else s.peek b := by
  rw [State.peek_admitWrites hm hl (by simpa [hq] using hr), hq, List.nil_append, lastWrite_cons, lastWrite_nil]
  split <;> rfl

@[simp] theorem arrived_lockCount : (arrived s).lockCount = s.lockCount := by simp [arrived]
@[simp] theorem arrived_halted : (arrived s).halted = s.halted := by simp [arrived]
@[simp] theorem arrived_busDeadlocked : (arrived s).busDeadlocked = s.busDeadlocked := by simp [arrived]
@[simp] theorem arrived_sup : (arrived s).sup = s.sup := by simp [arrived]
@[simp] theorem arrived_usr : (arrived s).usr = s.usr := by simp [arrived]
@[simp] theorem arrived_gie : (arrived s).gie = s.gie := by simp [arrived]
@[simp] theorem arrived_sleep : (arrived s).sleep = s.sleep := by simp [arrived]

theorem arrived_locked (hl : s.lockCount ≠ 0) : arrived s = s.popInput.queueWrites s.input.writes :=
  State.admitWrites_locked (s := s.popInput) hl _

theorem State.reply_of_regions {t : State} (h : t.regions = s.regions) (k : Access) (a : Word) : t.reply k a = s.reply k a := by
  rw [State.reply, State.reply, h]

theorem arrived_reply (k : Access) (a : Word) : (arrived s).reply k a = s.reply k a :=
  State.reply_of_regions (by simp [arrived]) k a

theorem arrived_peek (hm : s.mem.wf) (hl : s.lockCount = 0)
    (hr : ∀ w ∈ s.heldWrites ++ s.input.writes, s.reply .store w.1 = .memory) (a : Word) :
    (arrived s).peek a = (lastWrite (s.heldWrites ++ s.input.writes) a).getD (s.peek a) :=
  State.peek_admitWrites (s := s.popInput) hm hl hr a

theorem arrived_mem_wf (hm : s.mem.wf) : (arrived s).mem.wf := by
  rcases s.popInput.admitWrites_cases s.input.writes with ⟨-, m, st, e, hwf⟩ | ⟨-, e⟩
  · rw [arrived, e]; exact hwf hm
  · rw [arrived, e]; exact hm

/-- The debugger's write of a word of plain memory, with no other write waiting (R372). -/
theorem peek_debugger_write {a : Word} (hm : s.mem.wf) (hl : s.lockCount = 0) (hq : s.heldWrites = [])
    (hw : s.input.writes = []) (hr : s.reply .store a = .memory) (v b : Word) :
    ((arrived s).admitWrites [(a, v)]).peek b = if a = b then v else s.peek b := by
  have hbefore : (arrived s).peek b = s.peek b := by
    rw [arrived_peek hm hl (by simp [hq, hw]), hq, hw]
    rfl
  have hqueue : (arrived s).heldWrites = [] := State.admitWrites_unlocked_heldWrites (s := s.popInput) hl _
  rw [State.peek_admitWrites_one (arrived_mem_wf hm) (by simpa using hl) hqueue (by rwa [arrived_reply]), hbefore]

/-! ### Words a fetch may still return -/

theorem State.mem_staleAt {a w : Word} : w ∈ s.staleAt a ↔ (a.toNat, w) ∈ s.stale := by
  simp [State.staleAt]

/-- The words a fetch may still return after a write: those of before, and the word overwritten, if it changed (R83). -/
theorem State.mem_stale_poke (a v : Word) (c : Nat × Word) :
    c ∈ (s.poke a v).stale ↔ c ∈ s.stale ∨ (c = (a.toNat, s.peek a) ∧ s.peek a ≠ v) := by
  by_cases h : s.peek a = v ∨ (a.toNat, s.peek a) ∈ s.stale
  · simp only [State.poke, if_pos h]
    grind
  · simp only [State.poke, if_neg h, List.mem_cons]
    grind

/-! ### A deadlocked bus -/

/-- On a deadlocked bus only a reset acts (R85, log entry 19). -/
theorem HostAction.applies_deadlocked {act : HostAction} (hd : s.busDeadlocked = true) (hh : s.halted = none)
    (ha : act ≠ .reset) : act.applies s = false := by
  cases act <;> simp_all [HostAction.applies]

theorem step_of_deadlocked (hd : s.busDeadlocked = true) (hh : s.halted = none) (hx : s.input.host ≠ some .reset) :
    step s = .next (idled s) := by
  have hstopped : (arrived s).stepWith s.input = .next (idled s) := State.stepWith_stopped (.inr (by simpa using hd))
  cases hact : s.input.host with
  | none => rw [step_of_no_host hact, hstopped]
  | some act =>
    have hidle : act.applies (arrived s) = false :=
      HostAction.applies_deadlocked (by simpa using hd) (by simpa using hh) fun e => hx (by rw [hact, e])
    rw [step_of_idle_host hact hidle, hstopped]

/-! ### The debugger -/

/-- An action of the debugger other than a halt or a reset acts on a halted CPU (R372). -/
theorem step_of_debugger {act : HostAction} (hh : s.halted ≠ none) (hx : s.input.host = some act)
    (ha : act ≠ .halt) : step s = (arrived s).hostAct s.input act := by
  refine step_of_host hx ?_
  cases act <;> simp_all [HostAction.applies, Option.isSome_iff_ne_none]

theorem State.debugWriteReg_gen {i : RegNum} (hi : i.toNat < 14) (user : Bool) (v : Word) :
    s.debugWriteReg user i v =
      if user then { s with usr := s.usr.put i v } else { s with sup := s.sup.put i v } := by
  have h1 : i ≠ pcReg := by rintro rfl; simp at hi
  have h2 : i ≠ ccReg := by rintro rfl; simp at hi
  simp [State.debugWriteReg, h1, h2]

theorem State.debugWriteReg_pc (user : Bool) (v : Word) :
    s.debugWriteReg user pcReg v =
      if user then { s with usr := { s.usr with pc := v } } else { s with sup := { s.sup with pc := v } } := by
  simp [State.debugWriteReg, show pcReg ≠ ccReg by decide]

theorem State.debugWriteReg_cc (user : Bool) (v : Word) : s.debugWriteReg user ccReg v = s.debugWriteCC user v := by
  simp [State.debugWriteReg]

theorem getLsbD_of_softwareBits {x y : Word} (h : x.toNat / 2 ^ 13 = y.toNat / 2 ^ 13) {k : Nat} (hk : 13 ≤ k) :
    x.getLsbD k = y.getLsbD k := by
  have hbit : x.toNat.testBit k = y.toNat.testBit k := by
    simpa only [Nat.testBit_div_two_pow, Nat.sub_add_cancel hk] using congrArg (fun n => n.testBit (k - 13)) h
  exact hbit

/-- The set whose CC the debugger writes, as it is after the write. -/
theorem State.debugWriteCC_set (user : Bool) (v : Word) :
    (if user then (s.debugWriteCC user v).usr else (s.debugWriteCC user v).sup) =
      { (if user then s.usr else s.sup).putCCBits v with ill := v[8], buserr := v[10], dive := v[11], fpe := v[12] } := by
  cases user <;> rfl

/-- A CC the debugger has written reads back as written, but for bit 5 (log entry 7). -/
theorem State.ccOf_debugWriteCC (user : Bool) (v : Word) {k : Nat} (hk : k ≠ 5) :
    ((s.debugWriteCC user v).ccOf
      (if user then (s.debugWriteCC user v).usr else (s.debugWriteCC user v).sup) user).getLsbD k = v.getLsbD k := by
  rw [State.debugWriteCC_set]
  generalize hrs : ({ (if user then s.usr else s.sup).putCCBits v with
    ill := v[8], buserr := v[10], dive := v[11], fpe := v[12] } : RegSet) = rs
  obtain ⟨hz, hc, hn, hv⟩ := (s.debugWriteCC user v).ccOf_flags rs user
  obtain ⟨hsleep, -, hstep, hbreak⟩ := (s.debugWriteCC user v).ccOf_modeBits rs user
  obtain ⟨hill, htrap, hbuserr, hdive, hfpe⟩ := (s.debugWriteCC user v).ccOf_causeBits rs user
  have hhi := (s.debugWriteCC user v).ccOf_softwareBits rs user
  subst hrs
  by_cases hlow : k < 13
  · interval_cases k
    exacts [hz, hc, hn, hv, hsleep, absurd rfl hk, hstep, hbreak, hill, htrap, hbuserr, hdive, hfpe]
  · exact getLsbD_of_softwareBits (hhi.trans (softwareBits_toNat v)) (by omega)

end

end Sys2Proof.Machine

namespace Sys2Proof.Proofs

open Sys2Proof.Machine Sys2Proof.Claims

/-- Settles O53: writes wait in the queue inside the span, and the queue empties into memory, oldest first, outside it. -/
theorem lockOpensAnExclusiveSpan : Obligations.LockOpensAnExclusiveSpan := by
  refine ⟨exec_lock_std, fun s u w x hr hf hl hd => ?_, fun s hl => ?_, fun s ws hl => ?_, fun s a v hl hh hx => ?_,
    fun s hm hl hr => ⟨State.admitWrites_unlocked_heldWrites (s := s.popInput) hl _, arrived_peek hm hl hr⟩⟩
  · rw [State.stepWith_word hr hf]
    refine State.runFetched_refused ?_ hd
    rcases s.fetchWord_cases s.cur.pc with ⟨w, -, -, e | e⟩ | ⟨-, e⟩ | ⟨-, e⟩ <;> cases e.symm.trans hf <;> exact hl
  · rw [arrived_locked hl]
    exact ⟨rfl, rfl⟩
  · rw [State.admitWrites_locked hl]
    exact ⟨rfl, rfl⟩
  · refine ⟨_, step_of_debugger hh hx nofun, ?_⟩
    rw [arrived_locked hl, State.admitWrites_locked (s := s.popInput.queueWrites s.input.writes) hl]
    exact ⟨rfl, by simp [State.queueWrites]⟩

/-- Settles O54, from the cases of a fetch and what a write adds to the words one may return. -/
theorem fetchReturnsOldOrNewWord : Obligations.FetchReturnsOldOrNewWord := by
  refine ⟨State.fetchWord_memory, fun s u a w hr hf => ?_, fun s a v w h => ?_⟩
  · rcases s.fetchWord_cases a with ⟨w', hw', -, e | e⟩ | ⟨hr', -⟩ | ⟨hr', -⟩
    · cases e.symm.trans hf; exact hw'
    · cases e.symm.trans hf; exact hw'
    · simp [hr] at hr'
    · simp [hr] at hr'
  · rw [State.mem_staleAt] at h ⊢
    rw [State.mem_stale_poke]
    refine h.imp_right ?_
    rintro ⟨rfl, hne⟩
    exact ⟨rfl, hne⟩

/-- Settles O55: an access with no answer deadlocks the bus, and a deadlocked bus comes before everything but a reset. -/
theorem onlyResetReleasesDeadlock : Obligations.OnlyResetReleasesDeadlock := by
  refine ⟨fun i dr f s h hc => ?_, fun s x hh hd hs hi ha => State.stepWith_silent hh hd hs hi ha,
    fun s hd hh hx => step_of_deadlocked hd hh hx, fun s hx => ⟨step_of_host hx rfl, rfl, rfl⟩⟩
  rcases h with ⟨rfl, ha⟩ | ⟨rfl, ha⟩
  · exact ⟨_, exec_lod_silent hc ha, rfl, rfl, rfl, rfl, rfl⟩
  · exact ⟨_, exec_sto_silent hc ha, rfl, rfl, rfl, rfl, rfl⟩

/-- Settles O56: each host action acts at once on a halted CPU, and a halt on a running one. -/
theorem debuggerActsOnHaltedCpu : Obligations.DebuggerActsOnHaltedCpu := by
  refine ⟨fun s hh hd hx => ?_, fun s hh hd => ⟨fun hx => ?_, fun hx => ?_, fun a v hx hm hl hq hw hr => ?_,
    fun i v hi hx => ?_, fun i v hi hx => ?_, fun u v hx => ?_, fun u v hx => ?_⟩⟩
  · refine ⟨_, step_of_host hx (by simp [HostAction.applies, hd]), ?_, arrived_sup, arrived_usr, arrived_gie⟩
    simp [State.queueWrites, hh]
  · exact ⟨_, step_of_debugger hh hx nofun, rfl, arrived_sup, arrived_usr, arrived_gie, arrived_sleep, arrived_lockCount⟩
  · rw [step_of_debugger hh hx nofun, State.hostAct, State.debugStep]
    simp only [Bool.and_eq_true, Option.isNone_iff_eq_none, Bool.not_eq_true']
    rfl
  · have hafter := peek_debugger_write hm hl hq hw hr v
    refine ⟨_, step_of_debugger hh hx nofun, (hafter a).trans (if_pos rfl),
      fun b hb => (hafter b).trans (if_neg hb.symm), ?_, ?_, ?_⟩
    all_goals simp [State.queueWrites]
  · refine ⟨_, step_of_debugger hh hx nofun, ?_⟩
    rw [State.debugWriteReg_gen hi]
    exact ⟨by simp [State.queueWrites, RegSet.get_put, hi], arrived_sup, arrived_halted⟩
  · refine ⟨_, step_of_debugger hh hx nofun, ?_⟩
    rw [State.debugWriteReg_gen hi]
    exact ⟨by simp [State.queueWrites, RegSet.get_put, hi], arrived_usr, arrived_halted⟩
  · refine ⟨_, step_of_debugger hh hx nofun, ?_⟩
    rw [State.debugWriteReg_pc]
    cases u
    · exact ⟨rfl, arrived_halted⟩
    · exact ⟨rfl, arrived_halted⟩
  · refine ⟨_, step_of_debugger hh hx nofun, ?_⟩
    rw [State.debugWriteReg_cc]
    refine ⟨arrived_halted, ?_, fun k _ hk => State.ccOf_debugWriteCC u v hk⟩
    change (if u = (arrived s).gie then v[5] else (arrived s).gie) = _
    rw [arrived_gie]

end Sys2Proof.Proofs
end
